-- ==== Sys2Proof/Word.lean ====
section
/-! DEFINITION. The word types of the block: 30_encoding.md R62, R66, R9. -/

namespace Sys2Proof

/-- A command word, symbol word or operand word: 32 bits (R63, R66). -/
abbrev Word := BitVec 32

/-- An 8-bit value: a colour channel, a pin id, a clock divider, a serialised byte (R21, R23, R49, R65). -/
abbrev Byte := BitVec 8

/-- The 24-bit packed colour in wire order (R62). -/
abbrev ColorWord := BitVec 24

/-- A level of the output pin: `true` is high (R9). -/
abbrev Level := Bool

end Sys2Proof
end

