-- ==== Sys2Proof/Config.lean ====
section
/-! DEFINITION. What is fixed for one block: the parameters of 00_scope.md R6. The values the spec fixes are numbers;
the OPEN ones are constants with no body (log 5), and so are the environment oracle's draws of R136 (log 4). -/

namespace Sys2Proof

/-- The three colour channels of a ColorValue (R65). -/
inductive Channel
  | r
  | g
  | b
deriving DecidableEq, Repr, Inhabited

/-- The six wire orders, named by the channels first on the wire first (R101). -/
inductive ChannelOrder
  | rgb
  | rbg
  | grb
  | gbr
  | brg
  | bgr
deriving DecidableEq, Repr, Inhabited

/-- TransmissionError (R151). -/
inductive TxError
  | busy
  | overrun
  | other
deriving DecidableEq, Repr, Inhabited

/-- `Plan(m)` of R136: what the environment may answer for a transmission of `m` symbols. The bound `0 <= k <= 2 * m`
is in the type, so a draw keeps it whatever it is. -/
inductive PlanFor (m : Nat)
  | complete
  | fail (e : TxError) (k : Fin (2 * m + 1))
  | hang (k : Fin (2 * m + 1))
deriving DecidableEq, Repr, Inhabited

namespace Config

/-- `SEQ_LEN`: symbols per encoded colour (R6). -/
abbrev seqLen : Nat := 24

/-- `COLOR_BITS`: bits of a colour word (R6). -/
abbrev colorBits : Nat := 24

/-- `DUR_W`: width of a duration field (R6, R63). -/
abbrev durW : Nat := 15

/-- `DUR_MAX = 2^DUR_W - 1` ticks (R6, R60). -/
abbrev durMax : Nat := 32767

/-- `CLKDIV_MIN` (R6, R21). -/
abbrev clkDivMin : Nat := 1

/-- `CLKDIV_MAX` (R6, R21). -/
abbrev clkDivMax : Nat := 255

/-- `CHANNELS`: pulse-output channels the block owns (R6). -/
abbrev channels : Nat := 1

/-- `TICK_HZ(div) - 1`, OPEN (R6, R146; log 5). -/
opaque tickHzPred : Byte → Nat

/-- `TICK_HZ(div)`, OPEN, a positive natural for each divider (R146). -/
def tickHz (div : Byte) : Nat := tickHzPred div + 1

/-- `T0H_NS`, OPEN (R6, R98). -/
opaque t0hNs : Nat

/-- `T0L_NS`, OPEN (R6, R98). -/
opaque t0lNs : Nat

/-- `T1H_NS`, OPEN (R6, R98). -/
opaque t1hNs : Nat

/-- `T1L_NS`, OPEN (R6, R98). -/
opaque t1lNs : Nat

/-- The premise of R7 on the reference durations: a premise a claim may take, not a fact of the model. -/
def ReferenceHighsOrdered : Prop := t0hNs < t1hNs

/-- `PERIOD_TOL_NS`, OPEN (R6, R94). -/
opaque periodTolNs : Nat

/-- `LATCH_NS`, OPEN (R6, R143). -/
opaque latchNs : Nat

/-- `CHANNEL_ORDER`, OPEN (R6, R101). -/
opaque channelOrder : ChannelOrder

/-- `CHAN_CAP - 24`, OPEN in 0..231 (R6; log 5). -/
opaque chanCapExtra : Fin 232

/-- `CHAN_CAP`: symbols the channel buffer holds, OPEN with `24 <= CHAN_CAP <= 255` (R6). -/
def chanCap : Nat := 24 + chanCapExtra.val

/-- `VALID_PIN`: the pin ids the channel may be assigned, OPEN, a subset of 0..255 (R6, R23). -/
opaque validPin : Byte → Bool

/-- The `n`-th gap the environment draws, in nanoseconds, under no law (R136, R141; log 4). -/
opaque drawGap : Nat → Nat

/-- The `n`-th plan the environment draws, for a transmission of `m` symbols, under no law (R136; log 4). -/
opaque drawPlan : Nat → (m : Nat) → PlanFor m

end Config

end Sys2Proof
end

