-- ==== Sys2Proof/Syntax.lean ====
section
/-! DEFINITION. The commands as a type (30_encoding.md R66: one of the ten constructors, each with the operands its rule
lists) and the data they carry. -/

namespace Sys2Proof

/-- PulseSymbol: hold `level1` for `length1` ticks, then `level2` for `length2` ticks (R60). A duration is a natural number
of ticks; the bound `DUR_MAX` is a check (R93), not part of the type. -/
structure PulseSymbol where
  level1 : Level
  length1 : Nat
  level2 : Level
  length2 : Nat
deriving DecidableEq, Repr

/-- ColorValue: 24-bit RGB, 8 bits per channel (R65). -/
structure ColorValue where
  r : Byte
  g : Byte
  b : Byte
deriving DecidableEq, Repr

/-- The transmission modes: only `one_shot` (R131). -/
inductive Mode
  | oneShot
deriving DecidableEq, Repr

/-- The ten commands (R66), one constructor per row of the opcode map (R68). The counts `n` of SEND_PULSE_SEQUENCE and
SEND_MANY are the lengths of their lists (R75, R78). -/
inductive Instr
  /-- CONFIGURE (R69). -/
  | configure (idleLevel : Level) (carrierEn : Bool) (clockDiv : Byte)
  /-- ASSIGN_PIN (R70). -/
  | assignPin (pinId : Byte)
  /-- DERIVE_TICKS (R71). -/
  | deriveTicks (referenceNs clockHz : Word)
  /-- BUILD_TABLE (R72). -/
  | buildTable (t0hNs t0lNs t1hNs t1lNs clockHz : Word)
  /-- ENCODE (R73). -/
  | encodeColor (color : ColorWord) (t0word t1word : Word)
  /-- PACK (R74). -/
  | pack (color : ColorValue)
  /-- SEND_PULSE_SEQUENCE (R75). -/
  | sendPulseSequence (mode : Mode) (seq : List Word)
  /-- DRIVER_NEW (R76). -/
  | driverNew (t0word t1word : Word)
  /-- SEND_ONE (R77). -/
  | sendOne (color : ColorValue)
  /-- SEND_MANY (R78). -/
  | sendMany (colors : List ColorValue)
deriving DecidableEq, Repr

end Sys2Proof
end

