-- ==== Sys2Proof/WellFormed.lean ====
section
/-! DEFINITION. Which terms of Instr are commands some words spell: the value limits of 30_encoding.md R69, R70, R75, R78.
The set of valid pins is an argument, since VALID_PIN is a parameter of the model (00_scope.md R6). -/

namespace Sys2Proof

/-- The term is spelt by some command words, with `validPin` as VALID_PIN. -/
def Instr.wf (validPin : Byte → Bool) : Instr → Bool
  | .configure _ _ div => div != 0
  | .assignPin pin => validPin pin
  | .deriveTicks _ _ => true
  | .buildTable _ _ _ _ _ => true
  | .encodeColor _ _ _ => true
  | .pack _ => true
  | .sendPulseSequence _ seq => decide (1 ≤ seq.length) && decide (seq.length ≤ 255)
  | .driverNew _ _ => true
  | .sendOne _ => true
  | .sendMany colors => decide (colors.length ≤ 65535)

/-- Well-formed on this block: with its own VALID_PIN (R23). -/
def Instr.wellFormed (i : Instr) : Bool := i.wf Config.validPin

end Sys2Proof
end

