-- ==== Sys2Proof/Decode.lean ====
section
/-! DEFINITION. The command encoding of 30_encoding.md: the opcode map, the decoder (total on any word sequence, refusing
by name in the order of 60_exceptions.md R157), the encoder, and the byte serialisation of 20_memory.md R49. -/

namespace Sys2Proof

/-- Why a word sequence spells no command (R155). -/
inductive RefusalReason
  /-- R_RESERVED_OPCODE: opcode 0x00 or 0x0B to 0xFF (R79). -/
  | reservedOpcode
  /-- R_RESERVED_FIELD: a reserved field is not zero (R80). -/
  | reservedField
  /-- R_MODE: SEND_PULSE_SEQUENCE with mode 1 (R75). -/
  | mode
  /-- R_LENGTH_ZERO: SEND_PULSE_SEQUENCE with n = 0 (R75). -/
  | lengthZero
  /-- R_CLKDIV_ZERO: CONFIGURE with clock_div = 0 (R69). -/
  | clkDivZero
  /-- R_PIN_INVALID: ASSIGN_PIN with a pin outside VALID_PIN (R70). -/
  | pinInvalid
  /-- R_TRUNCATED: fewer words than the command needs (R81). -/
  | truncated
deriving DecidableEq, Repr

/-- The ten opcodes of the map of R68 that spell a command. -/
inductive Opcode
  | configure
  | assignPin
  | deriveTicks
  | buildTable
  | encodeColor
  | pack
  | sendPulseSequence
  | driverNew
  | sendOne
  | sendMany
deriving DecidableEq, Repr

/-- The opcode's number (R68). -/
def Opcode.code : Opcode → Byte
  | .configure => 0x01#8
  | .assignPin => 0x02#8
  | .deriveTicks => 0x03#8
  | .buildTable => 0x04#8
  | .encodeColor => 0x05#8
  | .pack => 0x06#8
  | .sendPulseSequence => 0x07#8
  | .driverNew => 0x08#8
  | .sendOne => 0x09#8
  | .sendMany => 0x0A#8

/-- The command an opcode number names; none for 0x00 and 0x0B to 0xFF (R68, R79). -/
def Opcode.ofCode (c : Byte) : Option Opcode :=
  match c.toNat with
  | 0x01 => some .configure
  | 0x02 => some .assignPin
  | 0x03 => some .deriveTicks
  | 0x04 => some .buildTable
  | 0x05 => some .encodeColor
  | 0x06 => some .pack
  | 0x07 => some .sendPulseSequence
  | 0x08 => some .driverNew
  | 0x09 => some .sendOne
  | 0x0A => some .sendMany
  | _ => none

/-- The opcode of a command (R66). -/
def Instr.opcode : Instr → Opcode
  | .configure _ _ _ => .configure
  | .assignPin _ => .assignPin
  | .deriveTicks _ _ => .deriveTicks
  | .buildTable _ _ _ _ _ => .buildTable
  | .encodeColor _ _ _ => .encodeColor
  | .pack _ => .pack
  | .sendPulseSequence _ _ => .sendPulseSequence
  | .driverNew _ _ => .driverNew
  | .sendOne _ => .sendOne
  | .sendMany _ => .sendMany

/-- The field of `len` bits whose lowest bit is bit `lo` of the word: `w[lo+len-1:lo]` of R8. -/
def field (lo len : Nat) (w : Word) : BitVec len := w.extractLsb' lo len

/-- The opcode field of word 0 (R66). -/
def opcodeField (w0 : Word) : Byte := field 24 8 w0

/-- The reserved fields of word 0, as (lowest bit, number of bits) (R80). -/
def Opcode.reservedFields : Opcode → List (Nat × Nat)
  | .configure => [(16, 8), (2, 6)]
  | .assignPin => [(8, 16)]
  | .deriveTicks => [(0, 24)]
  | .buildTable => [(0, 24)]
  | .encodeColor => []
  | .pack => []
  | .sendPulseSequence => [(16, 8), (1, 7)]
  | .driverNew => [(0, 24)]
  | .sendOne => []
  | .sendMany => [(16, 8)]

/-- All the listed fields of a word are zero. -/
def fieldsZero (fs : List (Nat × Nat)) (w : Word) : Bool := fs.all fun f => field f.1 f.2 w == 0

/-- The refusals on the values of word 0, in the order of R157. -/
def Opcode.valueRefusal (validPin : Byte → Bool) (op : Opcode) (w0 : Word) : Option RefusalReason :=
  match op with
  | .configure => if field 8 8 w0 = 0 then some .clkDivZero else none
  | .assignPin => if validPin (field 0 8 w0) then none else some .pinInvalid
  | .sendPulseSequence =>
    if field 0 1 w0 = 1 then some .mode
    else if field 8 8 w0 = 0 then some .lengthZero
    else none
  | .deriveTicks => none
  | .buildTable => none
  | .encodeColor => none
  | .pack => none
  | .driverNew => none
  | .sendOne => none
  | .sendMany => none

/-- How many operand words follow word 0: fixed by the opcode, but for the two commands whose count field gives it
(R67, R68). -/
def Opcode.operandWords (op : Opcode) (w0 : Word) : Nat :=
  match op with
  | .configure => 0
  | .assignPin => 0
  | .deriveTicks => 2
  | .buildTable => 5
  | .encodeColor => 2
  | .pack => 0
  | .sendPulseSequence => (field 8 8 w0).toNat
  | .driverNew => 2
  | .sendOne => 0
  | .sendMany => (field 0 16 w0).toNat

/-- `r` in [23:16], `g` in [15:8], `b` in [7:0] (R65, R74). -/
def colorOfWord (w : Word) : ColorValue where
  r := field 16 8 w
  g := field 8 8 w
  b := field 0 8 w

/-- The command with word 0 `w0` and operand words `ws`, whose number is the opcode's (R69 to R78). -/
def Opcode.command (op : Opcode) (w0 : Word) (ws : List Word) : Instr :=
  match op with
  | .configure => .configure (w0.getLsbD 0) (w0.getLsbD 1) (field 8 8 w0)
  | .assignPin => .assignPin (field 0 8 w0)
  | .deriveTicks => .deriveTicks (ws.getD 0 0) (ws.getD 1 0)
  | .buildTable => .buildTable (ws.getD 0 0) (ws.getD 1 0) (ws.getD 2 0) (ws.getD 3 0) (ws.getD 4 0)
  | .encodeColor => .encodeColor (field 0 24 w0) (ws.getD 0 0) (ws.getD 1 0)
  | .pack => .pack (colorOfWord w0)
  | .sendPulseSequence => .sendPulseSequence .oneShot ws
  | .driverNew => .driverNew (ws.getD 0 0) (ws.getD 1 0)
  | .sendOne => .sendOne (colorOfWord w0)
  | .sendMany => .sendMany (ws.map colorOfWord)

/-- The reserved fields of each operand word: only the colour words of SEND_MANY have one (R78, R80). -/
def Opcode.operandReserved : Opcode → List (Nat × Nat)
  | .sendMany => [(24, 8)]
  | .configure => []
  | .assignPin => []
  | .deriveTicks => []
  | .buildTable => []
  | .encodeColor => []
  | .pack => []
  | .sendPulseSequence => []
  | .driverNew => []
  | .sendOne => []

/-- What decoding answers: one command and the words after it, or one named reason (R67). -/
inductive Decoded
  | ok (i : Instr) (rest : List Word)
  | refused (r : RefusalReason)
deriving DecidableEq, Repr

/-- The decoder, total on word sequences (R67), with `validPin` as VALID_PIN. The order of its refusals is that of R157.
The empty sequence ends before word 0: R_TRUNCATED (log 12). -/
def decode (validPin : Byte → Bool) : List Word → Decoded
  | [] => .refused .truncated
  | w0 :: ws =>
    match Opcode.ofCode (opcodeField w0) with
    | none => .refused .reservedOpcode
    | some op =>
      if fieldsZero op.reservedFields w0 then
        match op.valueRefusal validPin w0 with
        | some r => .refused r
        | none =>
          let n := op.operandWords w0
          if ws.length < n then .refused .truncated
          else if (ws.take n).all (fieldsZero op.operandReserved) then .ok (op.command w0 (ws.take n)) (ws.drop n)
          else .refused .reservedField
      else .refused .reservedField

/-- Word 0 from an opcode and its 24-bit immediate field (R66). -/
def word0 (op : Opcode) (imm : BitVec 24) : Word := op.code ++ imm

/-- The 24 bits `r`, `g`, `b` of a colour as a command word carries them (R65, R74). -/
def colorBits (c : ColorValue) : BitVec 24 := c.r ++ c.g ++ c.b

/-- The words of a well-formed command (R69 to R78). -/
def encode : Instr → List Word
  | .configure idle carrier div =>
    [word0 .configure (0#8 ++ div ++ 0#6 ++ BitVec.ofBool carrier ++ BitVec.ofBool idle)]
  | .assignPin pin => [word0 .assignPin (0#16 ++ pin)]
  | .deriveTicks ns hz => [word0 .deriveTicks 0#24, ns, hz]
  | .buildTable t0h t0l t1h t1l hz => [word0 .buildTable 0#24, t0h, t0l, t1h, t1l, hz]
  | .encodeColor color t0 t1 => [word0 .encodeColor color, t0, t1]
  | .pack c => [word0 .pack (colorBits c)]
  | .sendPulseSequence .oneShot seq =>
    word0 .sendPulseSequence (0#8 ++ BitVec.ofNat 8 seq.length ++ 0#7 ++ 0#1) :: seq
  | .driverNew t0 t1 => [word0 .driverNew 0#24, t0, t1]
  | .sendOne c => [word0 .sendOne (colorBits c)]
  | .sendMany cs => word0 .sendMany (0#8 ++ BitVec.ofNat 16 cs.length) :: cs.map fun c => 0#8 ++ colorBits c

/-- How many words the command that starts with `w0` has, word 0 included (R67); a reserved opcode's word stands alone. -/
def commandWords (w0 : Word) : Nat :=
  match Opcode.ofCode (opcodeField w0) with
  | none => 1
  | some op => 1 + op.operandWords w0

/-- A word as bytes, least significant byte first (R49). -/
def bytesOfWord (w : Word) : List Byte := [field 0 8 w, field 8 8 w, field 16 8 w, field 24 8 w]

/-- A sequence of command words written out as bytes (R49). -/
def bytesOfWords (ws : List Word) : List Byte := ws.flatMap bytesOfWord

/-- The whole words a byte sequence spells, least significant byte first (R49); up to three bytes that make no word end
the sequence (log 12). -/
def wordsOfBytes : List Byte → List Word
  | b0 :: b1 :: b2 :: b3 :: bs => (b3 ++ b2 ++ b1 ++ b0) :: wordsOfBytes bs
  | _ => []

/-- The decoder on any bytes: the command and the words after it, or the reason (R49, R67). -/
def decodeBytes (validPin : Byte → Bool) (bs : List Byte) : Decoded := decode validPin (wordsOfBytes bs)

/-- The words of the command whose bits are `w`, numbered from word 0's bit 0, `nbits` of them given and the rest zero:
word 0 and as many operand words as it asks for. -/
def tableWords (nbits w : Nat) : List Word :=
  let v := w % 2 ^ nbits
  (List.range (commandWords (BitVec.ofNat 32 v))).map fun k => BitVec.ofNat 32 (v >>> (32 * k))

/-- The command this block's decoder reads from the bits `w` of an opcode table row; none where it refuses them. The
words go to the decoder as the bytes they are written out as (R49). -/
def decodeTableWord (nbits w : Nat) : Option Instr :=
  match decodeBytes Config.validPin (bytesOfWords (tableWords nbits w)) with
  | .ok i _ => some i
  | .refused _ => none

end Sys2Proof
end

