-- ==== Sys2Proof/Machine/State.lean ====
section
/-! DEFINITION. The state of the block (10_state.md R20), the values its elements take, the reasons a step can stop, and
the state after reset (R42). `configured`, `pin_assigned` and `drv_bound` are not stored: each says that its element holds a
value (log 7), and is computed in Machine/Flags.lean. -/

namespace Sys2Proof.Machine

/-- `CH_CONF`: the three settings of CONFIGURE (R21). -/
structure ChConf where
  idleLevel : Level
  carrierEn : Bool
  clockDiv : Byte
deriving DecidableEq, Repr

/-- `tx_state` (R24). -/
inductive TxState
  | idle
  | busy
  | hung
deriving DecidableEq, Repr

/-- `tx_plan`: the environment's answer for the accepted transmission (R27). -/
inductive Plan
  | complete
  | fail (e : TxError) (k : Nat)
  | hang (k : Nat)
deriving DecidableEq, Repr

/-- `tx_result` once the transmitter has ended a transmission: `Ok` or `Err(e)` (R28). -/
inductive TxOutcome
  | ok
  | err (e : TxError)
deriving DecidableEq, Repr

/-- `pin_out`: the level the output pin carries (R29). -/
inductive PinOut
  | undriven
  | driven (level : Level)
  | unknown
deriving DecidableEq, Repr

/-- A segment of the waveform (R140): a level held for a number of ticks, or the idle level held for a number of
nanoseconds between transmissions. A timed segment records the clock divider in force when it was emitted, beside the two
fields of R140, because its length in nanoseconds is by that divider (R10; log 14). -/
inductive Segment
  | timed (level : Level) (ticks : Nat) (div : Byte)
  | gap (level : Level) (ns : Nat)
deriving DecidableEq, Repr

/-- The command a waiting caller waits in (log 11): SEND_PULSE_SEQUENCE itself, SEND_ONE, or SEND_MANY with its colours. -/
inductive Sender
  | pulseSequence
  | sendOne
  | sendMany (colors : List ColorValue)
deriving DecidableEq, Repr

/-- `caller` (R32): ready for its next command, or waiting at colour index `j` (R31; 0 outside SEND_MANY). -/
inductive Caller
  | ready
  | waiting (j : Nat) (sender : Sender)
deriving DecidableEq, Repr

/-- BuildError (R152). -/
inductive BuildError
  | levels
  | zeroLength
  | overflow
  | discrimination
  | period
deriving DecidableEq, Repr

/-- The value of an `Ok` result: nothing, a tick count (R88), a table (R97), a ColorWord (R100), a PulseSequence (R102). -/
inductive Value
  | unit
  | ticks (n : Nat)
  | table (t0word t1word : Word)
  | color (w : ColorWord)
  | sequence (seq : List Word)
deriving DecidableEq, Repr

/-- The result a completed command returns to the caller: `Ok(v)`, or `Err(e)` with a TransmissionError or a BuildError
(R34, R150). -/
inductive Result
  | ok (v : Value)
  | txErr (e : TxError)
  | buildErr (e : BuildError)
deriving DecidableEq, Repr

/-- The eight faults of R153. -/
inductive FaultName
  | notConfigured
  | noPin
  | carrierEnabled
  | halfZeroSymbol
  | notBound
  | alreadyBound
  | tableInvalid
  | configAfterBind
deriving DecidableEq, Repr

/-- The mark a fault leaves: `Some(F, index, opcode, detail)` (R154). `index` is the position of the command in the
caller's program, `detail` the BuildError of F_TABLE_INVALID (R153). -/
structure FaultRecord where
  name : FaultName
  index : Nat
  opcode : Byte
  detail : Option BuildError
deriving DecidableEq, Repr

/-- The mark a refusal leaves: the reason and the command's index (R156). -/
structure RefusalRecord where
  reason : RefusalReason
  index : Nat
deriving DecidableEq, Repr

/-- The elements that may hold no value and that the transmitter reads (R41). -/
inductive Element
  | chConf
  | chMem
  | txPlan
deriving DecidableEq, Repr

/-- The reasons the machine stops with a fault. -/
inductive Fault
  /-- Raised by `step` in a state whose `fault` mark a command's check has set: the caller has no further step (R154).
  Safe: the spec says so. -/
  | raised (record : FaultRecord)
  /-- Raised by the transmitter where it would read an element that holds no value, in states no run reaches (R41, R46;
  log 9). Safe: the model stops and invents no value. -/
  | noValueRead (element : Element)
deriving DecidableEq, Repr

/-- The reasons the machine answers a refusal. -/
inductive Refusal
  /-- Raised by an arm of `exec` whose instruction has no meaning yet; no arm of this model is one. Safe: the model stops. -/
  | notModelled (mnemonic : String)
  /-- Raised by `step` in a state whose `refused` mark the decoder has set: the caller has no further step (R156). Safe:
  the spec says so. -/
  | noCommand (record : RefusalRecord)
deriving DecidableEq, Repr

/-- The state of the block: the record of R20, and the model's own fields, the caller's program (log 1) and the count
of the oracle's draws (log 4). -/
structure State where
  /-- `CH_CONF`; `none` is 'no value', `configured = 0` (R21, R22, R41). -/
  chConf : Option ChConf
  /-- `CH_PIN.pin_id`; `none` is 'no value', `pin_assigned = 0` (R23, R41). -/
  chPin : Option Byte
  /-- `tx_state` (R24). -/
  txState : TxState
  /-- `CH_MEM` as (index, word) pairs, indexes strictly rising; an index not listed holds no value (R25, R42; log 8). -/
  chMem : List (Nat × Word)
  /-- `tx_len` (R26). -/
  txLen : Nat
  /-- `tx_pos` (R26). -/
  txPos : Nat
  /-- `tx_plan` (R27). -/
  txPlan : Option Plan
  /-- `tx_result` (R28). -/
  txResult : Option TxOutcome
  /-- `pin_out` (R29). -/
  pinOut : PinOut
  /-- `DRV_TABLE0` and `DRV_TABLE1`; `none` is 'no value', `drv_bound = 0` (R30, R41). -/
  drvTable : Option (Word × Word)
  /-- `caller` (R32). -/
  caller : Caller
  /-- `wave`, oldest first (R33). -/
  wave : List Segment
  /-- `results`, oldest first (R34). -/
  results : List Result
  /-- `fault` (R35, R154). -/
  fault : Option FaultRecord
  /-- `refused`, with the reason and the index R156 asks for; `none` is 0 (R35). -/
  refused : Option RefusalRecord
  /-- The words of the caller's program already issued (the model's own; log 1). -/
  issued : List Word
  /-- The words of the caller's program still to be issued (the model's own; log 1). -/
  pending : List Word
  /-- How many times the environment oracle has been asked (the model's own; log 4). -/
  drawIndex : Nat
deriving DecidableEq, Repr

/-- The block right after reset (R42, R171). No program is loaded (log 1) and nothing is drawn (log 4). -/
def State.reset : State where
  chConf := none
  chPin := none
  txState := .idle
  chMem := []
  txLen := 0
  txPos := 0
  txPlan := none
  txResult := none
  pinOut := .undriven
  drvTable := none
  caller := .ready
  wave := []
  results := []
  fault := none
  refused := none
  issued := []
  pending := []
  drawIndex := 0

end Sys2Proof.Machine
end

