-- ==== Sys2Proof/Machine/ChMem.lean ====
section
/-! DEFINITION. The channel buffer CH_MEM (20_memory.md R45, R46, R50): whole 32-bit words by index, held as (index, word)
pairs with strictly rising indexes; an index that is not listed holds no value (10_state.md R25, R42; log 8). -/

namespace Sys2Proof.Machine

/-- The word at index `i`; `none` where the buffer holds no value there. -/
def ChMem.read : List (Nat × Word) → Nat → Option Word
  | [], _ => none
  | c :: m, i => if c.1 = i then some c.2 else ChMem.read m i

/-- `MemWrite(CH_MEM, i, v)` (R46): the word at index `i` becomes `v`, every other word stays. -/
def ChMem.write (i : Nat) (v : Word) : List (Nat × Word) → List (Nat × Word)
  | [] => [(i, v)]
  | c :: m =>
    if i < c.1 then (i, v) :: c :: m
    else if c.1 = i then (i, v) :: m
    else c :: ChMem.write i v m

/-- The words of a sequence written at the indexes from `i` on (R130: `for i in 0 .. n-1: MemWrite(CH_MEM, i, seq[i])`). -/
def ChMem.writeFrom (i : Nat) : List Word → List (Nat × Word) → List (Nat × Word)
  | [], m => m
  | v :: vs, m => ChMem.writeFrom (i + 1) vs (ChMem.write i v m)

/-- Every listed index is at least `i`, and the indexes rise strictly. -/
def ChMem.risesFrom (i : Nat) : List (Nat × Word) → Bool
  | [] => true
  | c :: m => decide (i ≤ c.1) && ChMem.risesFrom (c.1 + 1) m

/-- The canonical form of a buffer: indexes strictly rising, so that equal buffers are equal lists (log 8). -/
def ChMem.wf (m : List (Nat × Word)) : Bool := ChMem.risesFrom 0 m

/-- Every listed index lies in the buffer: below `cap` (R45). -/
def ChMem.within (cap : Nat) (m : List (Nat × Word)) : Bool := m.all fun c => decide (c.1 < cap)

end Sys2Proof.Machine
end

