-- ==== Sys2Proof/Machine/Flags.lean ====
section
/-! DEFINITION. The status elements of the block (10_state.md R38: it has no condition codes beyond them), the register
views of R39, and the code numbers of 60_exceptions.md R151 to R153. -/

namespace Sys2Proof.Machine

/-- `configured` (R22): `CH_CONF` holds a value. -/
def State.configured (s : State) : Bool := s.chConf.isSome

/-- `pin_assigned` (R23): `CH_PIN` holds a value. -/
def State.pinAssigned (s : State) : Bool := s.chPin.isSome

/-- `drv_bound` (R30): the driver's table holds a value. -/
def State.drvBound (s : State) : Bool := s.drvTable.isSome

/-- `tx_state` as the number `CH_STATUS` shows (R39). -/
def TxState.code : TxState → Nat
  | .idle => 0
  | .busy => 1
  | .hung => 2

/-- `CH_CONF` as the 16-bit register of R39: `clock_div` [15:8], reserved zero [7:2], `carrier_en` [1], `idle_level` [0]. -/
def ChConf.register (c : ChConf) : BitVec 16 :=
  c.clockDiv ++ 0#6 ++ BitVec.ofBool c.carrierEn ++ BitVec.ofBool c.idleLevel

/-- The register numbered `n` in R39, as a number; `none` where it holds no value or no register has the number. The
numbers are names for models and tests: no command reads or writes a register by number. -/
def State.register (s : State) (n : Nat) : Option Nat :=
  if n = 0 then s.chConf.map fun c => c.register.toNat
  else if n = 1 then s.chPin.map fun p => p.toNat
  else if n = 2 then some s.txState.code
  else if n = 3 then s.drvTable.map fun t => t.1.toNat
  else if n = 4 then s.drvTable.map fun t => t.2.toNat
  else if 16 ≤ n ∧ n < 16 + Config.chanCap then (ChMem.read s.chMem (n - 16)).map fun v => v.toNat
  else none

/-- The code of a TransmissionError (R151). -/
def txErrorCode : TxError → Nat
  | .busy => 1
  | .overrun => 2
  | .other => 3

/-- The code of a BuildError (R152). -/
def buildErrorCode : BuildError → Nat
  | .levels => 1
  | .zeroLength => 2
  | .overflow => 3
  | .discrimination => 4
  | .period => 5

/-- The code of a fault (R153). -/
def faultCode : FaultName → Nat
  | .notConfigured => 1
  | .noPin => 2
  | .carrierEnabled => 3
  | .halfZeroSymbol => 4
  | .notBound => 5
  | .alreadyBound => 6
  | .tableInvalid => 7
  | .configAfterBind => 8

end Sys2Proof.Machine
end

