-- ==== Sys2Proof/Machine/Operands.lean ====
section
/-! DEFINITION. The operand forms of the commands: symbol words (30_encoding.md R60 to R63), the two kinds of symbol with a
zero length (R61), the first terminator of a sequence (R142), and packed colours (R62, R100). -/

namespace Sys2Proof.Machine

/-- The symbol a 32-bit word spells (R63). -/
def symOf (v : Word) : PulseSymbol where
  level1 := v.getLsbD 15
  length1 := (field 0 15 v).toNat
  level2 := v.getLsbD 31
  length2 := (field 16 15 v).toNat

/-- The word of a symbol, each length cut to its 15-bit field (R63). -/
def symWord (s : PulseSymbol) : Word :=
  BitVec.ofBool s.level2 ++ BitVec.ofNat 15 s.length2 ++ BitVec.ofBool s.level1 ++ BitVec.ofNat 15 s.length1

/-- A terminator: both lengths zero, whatever the levels (R61). -/
def isTerminator (v : Word) : Bool := (symOf v).length1 == 0 && (symOf v).length2 == 0

/-- Exactly one length is zero (R61, R142). -/
def isHalfZero (v : Word) : Bool := ((symOf v).length1 == 0) != ((symOf v).length2 == 0)

/-- The index of the first terminator of a sequence, its length if there is none: `m` of R130, R142. -/
def firstTerminator : List Word → Nat
  | [] => 0
  | v :: vs => if isTerminator v then 0 else firstTerminator vs + 1

/-- The half-symbol number `p` of a symbol: the first half for an even `p`, the second for an odd one (R26, R135). -/
def halfOf (p : Nat) (s : PulseSymbol) : Level × Nat :=
  if p % 2 = 0 then (s.level1, s.length1) else (s.level2, s.length2)

/-- `hi(s)`: the high duration of a symbol, in ticks (R87). -/
def highTicks (s : PulseSymbol) : Nat :=
  (if s.level1 then s.length1 else 0) + (if s.level2 then s.length2 else 0)

/-- `per(s)`: the period of a symbol, in ticks (R87). -/
def periodTicks (s : PulseSymbol) : Nat := s.length1 + s.length2

/-- The byte of a colour channel (R100). -/
def channelByte (c : ColorValue) : Channel → Byte
  | .r => c.r
  | .g => c.g
  | .b => c.b

/-- The channels of a wire order, first on the wire first (R101). -/
def wireChannels : ChannelOrder → Channel × Channel × Channel
  | .rgb => (.r, .g, .b)
  | .rbg => (.r, .b, .g)
  | .grb => (.g, .r, .b)
  | .gbr => (.g, .b, .r)
  | .brg => (.b, .r, .g)
  | .bgr => (.b, .g, .r)

end Sys2Proof.Machine
end

