-- ==== Sys2Proof/Machine/Ops.lean ====
section
/-! DEFINITION. The shared operations: returning a result, raising a fault and refusing a command (60_exceptions.md R154,
R156), and the acceptance of a transmission (43_pulse_output_peripheral.md R130). There is no trap entry and no return
(R160): the sticky mark of `raiseFault` is what this block has in their place. -/

namespace Sys2Proof.Machine

/-- What one step answers. -/
abbrev Step := Host.Outcome State Fault Refusal

/-- The position, in the caller's program, of the command being executed or next to be issued: as many commands as have
returned a result stand before it (R34, R154; log 6). -/
def State.commandIndex (s : State) : Nat := s.results.length

/-- `raise Fault(F)` (R154): the mark is written and nothing else. -/
def State.raiseFault (f : FaultName) (detail : Option BuildError) (op : Opcode) (s : State) : State :=
  { s with fault := some { name := f, index := s.commandIndex, opcode := op.code, detail := detail } }

/-- `refuse(R)` (R156): the mark is written and nothing else. -/
def State.refuse (r : RefusalReason) (s : State) : State :=
  { s with refused := some { reason := r, index := s.commandIndex } }

/-- `return Ok(v)` or `return Err(e)` (R11, R34): the result is appended and the caller is ready for its next command. -/
def State.finish (r : Result) (s : State) : State :=
  { s with results := s.results ++ [r], caller := .ready }

/-- A drawn plan as `tx_plan` holds it (R27). -/
def planOf {m : Nat} : PlanFor m → Plan
  | .complete => .complete
  | .fail e k => .fail e k.val
  | .hang k => .hang k.val

/-- The writes of the acceptance step of R130, with `idle` the idle level and `m` the index of the first terminator: the
gap and the plan are drawn, the symbols are copied, the channel is Busy and the caller waits. -/
def State.startTransmission (idle : Level) (sender : Sender) (j : Nat) (seq : List Word) (m : Nat) (s : State) : State :=
  { s with
    wave := s.wave ++ [.gap idle (Config.drawGap s.drawIndex)]
    chMem := ChMem.writeFrom 0 seq s.chMem
    txLen := m
    txPos := 0
    txPlan := some (planOf (Config.drawPlan s.drawIndex m))
    txResult := none
    txState := .busy
    caller := .waiting j sender
    drawIndex := s.drawIndex + 1 }

/-- What handing a sequence to the channel answers: a fault, an error at once, or an accepted transmission. -/
inductive Acceptance
  | fault (f : FaultName)
  | err (e : TxError)
  | accepted (s : State)

/-- The acceptance step of SEND_PULSE_SEQUENCE (R130), its checks in the order of R158, for the command `sender` at colour
index `j`. -/
def accept (sender : Sender) (j : Nat) (seq : List Word) (s : State) : Acceptance :=
  match s.chConf with
  | none => .fault .notConfigured
  | some conf =>
    if !s.pinAssigned then .fault .noPin
    else if conf.carrierEn then .fault .carrierEnabled
    else if s.txState = .busy then .err .busy
    else if Config.chanCap < seq.length then .err .overrun
    else if (seq.take (firstTerminator seq)).any isHalfZero then .fault .halfZeroSymbol
    else .accepted (s.startTransmission conf.idleLevel sender j seq (firstTerminator seq))

/-- A send command's step from what the acceptance answers: the fault is raised under the command's own opcode, the error is
the command's result (R119, R132, R133), an accepted transmission leaves the caller waiting. -/
def conclude (op : Opcode) (a : Acceptance) (s : State) : Step :=
  match a with
  | .fault f => .next (s.raiseFault f none op)
  | .err e => .next (s.finish (.txErr e))
  | .accepted t => .next t

end Sys2Proof.Machine
end

