-- ==== Sys2Proof/Machine/Channel.lean ====
section
/-! DEFINITION. The pulse-output channel's commands (43_pulse_output_peripheral.md): CONFIGURE, ASSIGN_PIN,
SEND_PULSE_SEQUENCE. -/

namespace Sys2Proof.Machine

/-- The writes of CONFIGURE (R126): all three settings, and the idle level on the pin where one is assigned. -/
def State.setConf (conf : ChConf) (s : State) : State :=
  { s with chConf := some conf, pinOut := if s.pinAssigned then .driven conf.idleLevel else s.pinOut }

/-- The writes of ASSIGN_PIN (R128): the pin, and the idle level on it where the channel is configured. -/
def State.setPin (pin : Byte) (s : State) : State :=
  { s with
    chPin := some pin
    pinOut := match s.chConf with
      | some conf => .driven conf.idleLevel
      | none => s.pinOut }

/-- CONFIGURE (R126, R123). -/
def execConfigure (idle : Level) (carrier : Bool) (div : Byte) (s : State) : Step :=
  if s.drvBound then .next (s.raiseFault .configAfterBind none .configure)
  else .next ((s.setConf { idleLevel := idle, carrierEn := carrier, clockDiv := div }).finish (.ok .unit))

/-- ASSIGN_PIN (R128, R123). -/
def execAssignPin (pin : Byte) (s : State) : Step :=
  if s.drvBound then .next (s.raiseFault .configAfterBind none .assignPin)
  else .next ((s.setPin pin).finish (.ok .unit))

/-- SEND_PULSE_SEQUENCE, the acceptance step of the caller (R130); the only mode is one_shot (R131). -/
def execSendPulseSequence (mode : Mode) (seq : List Word) (s : State) : Step :=
  match mode with
  | .oneShot => conclude .sendPulseSequence (accept .pulseSequence 0 seq s) s

end Sys2Proof.Machine
end

