-- ==== Sys2Proof/Machine/Encoder.lean ====
section
/-! DEFINITION. The PulseEncoder (41_encoder.md): PACK fixes the channel order, ENCODE the bit order. -/

namespace Sys2Proof.Machine

/-- PACK's ColorWord: the three channel bytes in wire order, the first on the wire in [23:16] (R100). -/
def packColor (order : ChannelOrder) (c : ColorValue) : ColorWord :=
  let cs := wireChannels order
  channelByte c cs.1 ++ channelByte c cs.2.1 ++ channelByte c cs.2.2

/-- ENCODE's PulseSequence: entry `i` is the symbol of bit `23 - i`, most significant bit first (R102). -/
def encodeSequence (w : ColorWord) (t0word t1word : Word) : List Word :=
  (List.range Config.seqLen).map fun i => if w.getLsbD (23 - i) then t1word else t0word

/-- PACK (R100). -/
def execPack (c : ColorValue) (s : State) : Step :=
  .next (s.finish (.ok (.color (packColor Config.channelOrder c))))

/-- ENCODE (R102). -/
def execEncode (w : ColorWord) (t0word t1word : Word) (s : State) : Step :=
  .next (s.finish (.ok (.sequence (encodeSequence w t0word t1word))))

end Sys2Proof.Machine
end

