-- ==== Sys2Proof/Machine/TimingTable.lean ====
section
/-! DEFINITION. The BitTimingTable (40_timing_table.md): DERIVE_TICKS, the five checks of a table, BUILD_TABLE. -/

namespace Sys2Proof.Machine

/-- The tick count of a reference duration at a clock rate, exact halves rounded up (R88). -/
def ticksOf (referenceNs clockHz : Nat) : Nat := (2 * referenceNs * clockHz + 10 ^ 9) / (2 * 10 ^ 9)

/-- `|a - b|` of two naturals. -/
def absDiff (a b : Nat) : Nat := (a - b) + (b - a)

/-- `WF_LEVELS`: both symbols high first, then low (R90). -/
def levelsOk (t0 t1 : PulseSymbol) : Bool := t0.level1 && !t0.level2 && t1.level1 && !t1.level2

/-- `WF_NONZERO`: every length at least one tick (R91). -/
def nonzeroOk (t0 t1 : PulseSymbol) : Bool :=
  t0.length1 != 0 && t0.length2 != 0 && t1.length1 != 0 && t1.length2 != 0

/-- `WF_FIT`: every length at most DUR_MAX (R93). -/
def fitOk (t0 t1 : PulseSymbol) : Bool :=
  decide (t0.length1 ≤ Config.durMax) && decide (t0.length2 ≤ Config.durMax) &&
    decide (t1.length1 ≤ Config.durMax) && decide (t1.length2 ≤ Config.durMax)

/-- `WF_DISCRIM`: bit 1 is high longer than bit 0 (R92). -/
def discrimOk (t0 t1 : PulseSymbol) : Bool := decide (highTicks t0 < highTicks t1)

/-- `WF_PERIOD` at tick rate `hz`: the periods differ by at most `tol` nanoseconds, exactly (R94). -/
def periodOk (tol hz : Nat) (t0 t1 : PulseSymbol) : Bool :=
  decide (absDiff (periodTicks t1) (periodTicks t0) * 10 ^ 9 ≤ tol * hz)

/-- `wf_error(table, hz)`: the first failing check in the order of R95, none where the table is well-formed (R96). -/
def wfError (tol hz : Nat) (t0 t1 : PulseSymbol) : Option BuildError :=
  if !levelsOk t0 t1 then some .levels
  else if !nonzeroOk t0 t1 then some .zeroLength
  else if !fitOk t0 t1 then some .overflow
  else if !discrimOk t0 t1 then some .discrimination
  else if !periodOk tol hz t0 t1 then some .period
  else none

/-- A bit symbol: high for `h` ticks, then low for `l` ticks. -/
def highLow (h l : Nat) : PulseSymbol where
  level1 := true
  length1 := h
  level2 := false
  length2 := l

/-- BUILD_TABLE's result for four reference durations at a clock rate, with `tol` as PERIOD_TOL_NS (R97). -/
def buildTable (tol t0h t0l t1h t1l hz : Nat) : Result :=
  let a := ticksOf t0h hz
  let b := ticksOf t0l hz
  let c := ticksOf t1h hz
  let d := ticksOf t1l hz
  if a = 0 ∨ b = 0 ∨ c = 0 ∨ d = 0 then .buildErr .zeroLength
  else if Config.durMax < a ∨ Config.durMax < b ∨ Config.durMax < c ∨ Config.durMax < d then .buildErr .overflow
  else if ¬ a < c then .buildErr .discrimination
  else if tol * hz < absDiff (c + d) (a + b) * 10 ^ 9 then .buildErr .period
  else .ok (.table (symWord (highLow a b)) (symWord (highLow c d)))

/-- DERIVE_TICKS (R88). -/
def execDeriveTicks (referenceNs clockHz : Word) (s : State) : Step :=
  .next (s.finish (.ok (.ticks (ticksOf referenceNs.toNat clockHz.toNat))))

/-- BUILD_TABLE (R97). -/
def execBuildTable (t0h t0l t1h t1l hz : Word) (s : State) : Step :=
  .next (s.finish (buildTable Config.periodTolNs t0h.toNat t0l.toNat t1h.toNat t1l.toNat hz.toNat))

/-- What BUILD_TABLE gives for the block's own reference durations at the tick rate of a divider: the table a caller that
wants the LED's timing binds (R98). -/
def referenceTable (div : Byte) : Result :=
  buildTable Config.periodTolNs Config.t0hNs Config.t0lNs Config.t1hNs Config.t1lNs (Config.tickHz div)

end Sys2Proof.Machine
end

