-- ==== Sys2Proof/Machine/Driver.lean ====
section
/-! DEFINITION. The ChannelDriver (42_channel_driver.md): DRIVER_NEW, SEND_ONE, SEND_MANY. -/

namespace Sys2Proof.Machine

/-- The writes of DRIVER_NEW (R111): the table, and with it `drv_bound`. -/
def State.bindDriver (t0word t1word : Word) (s : State) : State := { s with drvTable := some (t0word, t1word) }

/-- DRIVER_NEW (R111): the checks in the order written, the table checked at the channel's own tick rate (R112). -/
def execDriverNew (t0word t1word : Word) (s : State) : Step :=
  if s.drvBound then .next (s.raiseFault .alreadyBound none .driverNew)
  else
    match s.chConf with
    | none => .next (s.raiseFault .notConfigured none .driverNew)
    | some conf =>
      if !s.pinAssigned then .next (s.raiseFault .noPin none .driverNew)
      else
        match wfError Config.periodTolNs (Config.tickHz conf.clockDiv) (symOf t0word) (symOf t1word) with
        | some e => .next (s.raiseFault .tableInvalid (some e) .driverNew)
        | none => .next ((s.bindDriver t0word t1word).finish (.ok .unit))

/-- The body of R114 for one colour, inside the command `op`: the driver's table encodes the packed colour and the 24
symbols go to the channel as one transmission (R115). -/
def sendColor (op : Opcode) (sender : Sender) (j : Nat) (c : ColorValue) (s : State) : Step :=
  match s.drvTable with
  | none => .next (s.raiseFault .notBound none op)
  | some t =>
    conclude op (accept sender j (encodeSequence (packColor Config.channelOrder c) t.1 t.2) s) s

/-- SEND_ONE (R114). -/
def execSendOne (c : ColorValue) (s : State) : Step := sendColor .sendOne .sendOne 0 c s

/-- The next transmission of a SEND_MANY: colour `j` of its list (R116). -/
def sendManyColor (colors : List ColorValue) (j : Nat) (c : ColorValue) (s : State) : Step :=
  sendColor .sendMany (.sendMany colors) j c s

/-- SEND_MANY (R116): the binding is checked, an empty list returns at once (R118), else colour 0 is sent. Where the inner
SEND_ONE of colour 0 faults, `caller` stays Ready: R116 writes Waiting(0) before the check, R154 lets a faulting command write
nothing but the mark, and the model follows R154 (log 15). -/
def execSendMany (colors : List ColorValue) (s : State) : Step :=
  if !s.drvBound then .next (s.raiseFault .notBound none .sendMany)
  else
    match colors with
    | [] => .next (s.finish (.ok .unit))
    | c :: _ => sendManyColor colors 0 c s

end Sys2Proof.Machine
end

