-- ==== Sys2Proof/Machine/Dispatch.lean ====
section
/-! DEFINITION. One arm per command (30_encoding.md R66, R68). -/

namespace Sys2Proof.Machine

def exec (i : Instr) (s : State) : Host.Outcome State Fault Refusal :=
  match i with
  | .configure idle carrier div => Sys2Proof.Machine.execConfigure idle carrier div s
  | .assignPin pin => Sys2Proof.Machine.execAssignPin pin s
  | .deriveTicks ns hz => Sys2Proof.Machine.execDeriveTicks ns hz s
  | .buildTable t0h t0l t1h t1l hz => Sys2Proof.Machine.execBuildTable t0h t0l t1h t1l hz s
  | .encodeColor w t0 t1 => Sys2Proof.Machine.execEncode w t0 t1 s
  | .pack c => Sys2Proof.Machine.execPack c s
  | .sendPulseSequence mode seq => Sys2Proof.Machine.execSendPulseSequence mode seq s
  | .driverNew t0 t1 => Sys2Proof.Machine.execDriverNew t0 t1 s
  | .sendOne c => Sys2Proof.Machine.execSendOne c s
  | .sendMany colors => Sys2Proof.Machine.execSendMany colors s

end Sys2Proof.Machine
end

