-- ==== Sys2Proof/Machine/Transmitter.lean ====
section
/-! DEFINITION. The transmitter's steps (43_pulse_output_peripheral.md R134 to R139): one half-symbol a step, then the
end the plan gives. -/

namespace Sys2Proof.Machine

/-- How many half-symbols a plan lets out of a transmission of `len` symbols: `stop` of R135. -/
def Plan.stop (len : Nat) : Plan → Nat
  | .complete => 2 * len
  | .fail _ k => k
  | .hang k => k

/-- `MemRead(CH_MEM, i)` (R46): only below `tx_len`; `none` where there is no value to read. -/
def State.memRead (s : State) (i : Nat) : Option Word := if i < s.txLen then ChMem.read s.chMem i else none

/-- One half-symbol leaves on the pin, with `div` the divider in force (R10, R135, R140). -/
def State.emitHalf (level : Level) (ticks : Nat) (div : Byte) (s : State) : State :=
  { s with pinOut := .driven level, wave := s.wave ++ [.timed level ticks div], txPos := s.txPos + 1 }

/-- The end of a transmission, completed (R137) or failed (R139): the pin at the idle level, the result handed over, the
channel Idle. -/
def State.endTransmission (idle : Level) (r : TxOutcome) (s : State) : State :=
  { s with pinOut := .driven idle, txResult := some r, txState := .idle }

/-- A hang (R138). -/
def State.hang (s : State) : State := { s with pinOut := .unknown, txState := .hung }

/-- The last step of a transmission that hands over a result. The idle level is read from CH_CONF, which holds a value
in every state a run reaches (log 9). -/
def endStep (r : TxOutcome) (s : State) : Step :=
  match s.chConf with
  | none => .fault (.noValueRead .chConf)
  | some conf => .next (s.endTransmission conf.idleLevel r)

/-- The emission of half-symbol `tx_pos` (R135). Its divider is read from CH_CONF, which holds a value in every state a run
reaches (log 9). -/
def emitStep (s : State) : Step :=
  match s.memRead (s.txPos / 2) with
  | none => .fault (.noValueRead .chMem)
  | some v =>
    match s.chConf with
    | none => .fault (.noValueRead .chConf)
    | some conf => .next (s.emitHalf (halfOf s.txPos (symOf v)).1 (halfOf s.txPos (symOf v)).2 conf.clockDiv)

/-- The transmitter's step where `tx_state = Busy` (R134, R135). -/
def transmitterStep (s : State) : Step :=
  match s.txPlan with
  | none => .fault (.noValueRead .txPlan)
  | some plan =>
    if s.txPos < plan.stop s.txLen then emitStep s
    else
      match plan with
      | .complete => endStep .ok s
      | .fail e _ => endStep (.err e) s
      | .hang _ => .next s.hang

end Sys2Proof.Machine
end

