-- ==== Sys2Proof/Machine/Agents.lean ====
section
/-! DEFINITION. The agents of the block (00_scope.md R16) and which of them moves: the caller issues commands, takes
results and goes on with a SEND_MANY; the transmitter moves where `tx_state = Busy`; where neither has a step, the block
rests (log 2), or answers the fault or refusal its mark records (log 3). -/

namespace Sys2Proof.Machine

/-- The command at the head of the program is issued: its words, those before `rest`, are behind the caller (log 1). -/
def State.issue (rest : List Word) (s : State) : State :=
  { s with issued := s.issued ++ s.pending.take (s.pending.length - rest.length), pending := rest }

/-- The caller issues its next command: decoded first, then executed (R157). -/
def issueStep (s : State) : Step :=
  match decode Config.validPin s.pending with
  | .refused r => .next (s.refuse r)
  | .ok i rest => exec i (s.issue rest)

/-- A transmission's outcome as the result of a command that sends one sequence (R119, R149). -/
def resultOf : TxOutcome → Result
  | .ok => .ok .unit
  | .err e => .txErr e

/-- SEND_MANY goes on to colour `j` (R116). -/
def State.waitFor (j : Nat) (sender : Sender) (s : State) : State := { s with caller := .waiting j sender }

/-- `tx_result` is taken (R28, R149). -/
def State.takeResult (s : State) : State := { s with txResult := none }

/-- The completion step of R130 and R149 for a transmission that ended with `r`: the result is taken, and is the command's
result, but where SEND_MANY has a colour left after an `Ok`. -/
def completionStep (j : Nat) (sender : Sender) (r : TxOutcome) (s : State) : Step :=
  match sender, r with
  | .sendMany colors, .ok =>
    if j + 1 < colors.length then .next (s.takeResult.waitFor (j + 1) sender)
    else .next (s.takeResult.finish (resultOf r))
  | _, _ => .next (s.takeResult.finish (resultOf r))

/-- The step of a caller that waits at colour `j` in `sender`, if it has one: it takes a result, or, inside SEND_MANY with the
channel Idle, hands over colour `j` (log 11). -/
def waitingStep (j : Nat) (sender : Sender) (s : State) : Option Step :=
  match s.txResult with
  | some r => some (completionStep j sender r s)
  | none =>
    match sender, s.txState with
    | .sendMany colors, .idle => colors[j]?.map fun c => sendManyColor colors j c s
    | _, _ => none

/-- The caller's step, if it has one: none after a fault or a refusal (R154, R156), none at the end of its program. -/
def callerStep (s : State) : Option Step :=
  if s.fault.isSome || s.refused.isSome then none
  else
    match s.caller with
    | .ready => if s.pending = [] then none else some (issueStep s)
    | .waiting j sender => waitingStep j sender s

/-- What the block answers where no agent has a step: the fault or refusal its mark records, else the same state, at the
end of the program (R169) or for ever after a hang (R138, R168). -/
def restStep (s : State) : Step :=
  match s.fault, s.refused with
  | some f, _ => .fault (.raised f)
  | none, some r => .refused (.noCommand r)
  | none, none => .next s

/-- One step of the block: the caller's if it has one, else the transmitter's if `tx_state = Busy` (R134), else rest. In
the states a run reaches at most one of the two has a step (log 10). -/
def agentStep (s : State) : Step :=
  match callerStep s with
  | some o => o
  | none => if s.txState = .busy then transmitterStep s else restStep s

/-- A program's words are placed for the caller to issue next (log 1). -/
def State.load (ws : List Word) (s : State) : State := { s with pending := ws }

/-- The reset event (R170, R171): every element of R42 at its reset value, also in the middle of a transmission (R183), and
the caller at the first command of its program, which is no state (R44). The oracle's draws go on (log 13). -/
def State.applyReset (s : State) : State :=
  { State.reset with pending := s.issued ++ s.pending, drawIndex := s.drawIndex }

end Sys2Proof.Machine
end

