-- ==== Sys2Proof/Machine/Step.lean ====
section
/-! DEFINITION. One step of the block, and the placing of a command where the next step issues it. -/

namespace Sys2Proof.Machine

/-- One step: the one agent that moves takes its step (00_scope.md R16; Machine/Agents.lean). -/
def step (s : State) : Host.Outcome State Fault Refusal := agentStep s

/-- The command whose bits are `w` stands next in the caller's program (log 1). -/
def State.withFetchWord (s : State) (nbits w : Nat) : State := s.load (tableWords nbits w)

end Sys2Proof.Machine
end

