-- ==== Sys2Proof/Machine/Waveform.lean ====
section
/-! DEFINITION. How the waveform is read (43_pulse_output_peripheral.md R140, R143, R147): durations in nanoseconds, the
physical line, and the LED chain's latch reading. These are observation helpers: no step of the block uses them. -/

namespace Sys2Proof.Machine

/-- `ns(t)`: the length of `t` ticks at tick rate `hz`, an exact rational number of nanoseconds (R10). -/
def nanoseconds (hz t : Nat) : ℚ := (t : ℚ) * 10 ^ 9 / hz

/-- The level of a segment. -/
def Segment.level : Segment → Level
  | .timed l _ _ => l
  | .gap l _ => l

/-- The duration of a segment in nanoseconds, a timed one's at the divider it was emitted under (R10, R140), with `rate` as
TICK_HZ. -/
def Segment.duration (rate : Byte → Nat) : Segment → ℚ
  | .timed _ t div => nanoseconds (rate div) t
  | .gap _ g => g

/-- The ticks of a segment; a gap has none. -/
def Segment.ticks : Segment → Nat
  | .timed _ t _ => t
  | .gap _ _ => 0

/-- The ticks of the timed segments of a waveform (R147, R185). -/
def timedTicks (w : List Segment) : Nat := (w.map Segment.ticks).sum

/-- A level and duration put before a line, merged with the line's first entry where the levels are equal. -/
def joinLine (l : Level) (d : ℚ) : List (Level × ℚ) → List (Level × ℚ)
  | [] => [(l, d)]
  | (l', d') :: rest => if l = l' then (l, d + d') :: rest else (l, d) :: (l', d') :: rest

/-- The physical line: the segments with adjacent equal levels merged, their durations added in nanoseconds (R140). -/
def physicalLine (rate : Byte → Nat) : List Segment → List (Level × ℚ)
  | [] => []
  | x :: xs => joinLine x.level (x.duration rate) (physicalLine rate xs)

/-- A segment that holds the line low for a number of ticks. -/
def Segment.isLowTimed : Segment → Bool
  | .timed l _ _ => !l
  | .gap _ _ => false

/-- The nanoseconds of the low timed segments that end a transmission (R143). -/
def trailingLow (rate : Byte → Nat) (w : List Segment) : ℚ :=
  ((w.reverse.takeWhile Segment.isLowTimed).map (Segment.duration rate)).sum

/-- How the LED chain reads the boundary between two transmissions (R143). -/
inductive LatchReading
  | endOfFrame
  | sameFrame
  | either
  | noReading
deriving DecidableEq, Repr

/-- The reading of the boundary after the transmission `first`, the next one preceded by `Gap(level, g)`, with `latchNs` as
LATCH_NS and `rate` as TICK_HZ (R143). -/
def latchReading (latchNs : Nat) (rate : Byte → Nat) (first : List Segment) (level : Level) (g : Nat) : LatchReading :=
  if level then .noReading
  else if latchNs < g then .endOfFrame
  else if (g : ℚ) + trailingLow rate first ≤ latchNs then .sameFrame
  else .either

/-- The boundaries of a waveform in order, `first` being the transmission read so far and `started` whether one was (R143).
Every accepted transmission counts as one, also one that failed after a part of its symbols or after none, whose partial colour
R180 gives no reading: the model's choice (log 16). -/
def boundaryReadings (latchNs : Nat) (rate : Byte → Nat) (started : Bool) (first : List Segment) :
    List Segment → List LatchReading
  | [] => []
  | .timed l t div :: xs => boundaryReadings latchNs rate started (first ++ [.timed l t div]) xs
  | .gap l g :: xs =>
    if started then latchReading latchNs rate first l g :: boundaryReadings latchNs rate true [] xs
    else boundaryReadings latchNs rate true [] xs

/-- The readings of all boundaries between successive transmissions of a waveform (R143; log 16). -/
def latchReadings (latchNs : Nat) (rate : Byte → Nat) (w : List Segment) : List LatchReading :=
  boundaryReadings latchNs rate false [] w

/-- The physical line of this block's waveform: at its own TICK_HZ (R10, R140). Where ASSIGN_PIN has moved the channel between two
transmissions, the segments of both pins are read as one line: the model's choice (R129; log 17). -/
def State.pinLine (s : State) : List (Level × ℚ) := physicalLine Config.tickHz s.wave

/-- The latch readings of this block's waveform: at its own LATCH_NS and TICK_HZ (R143). The boundary at which ASSIGN_PIN has moved
the channel is read as one chain's, like any other: the model's choice (R129; log 17). -/
def State.ledReadings (s : State) : List LatchReading := latchReadings Config.latchNs Config.tickHz s.wave

/-- The two segments a symbol word is emitted as under a divider (R135, R144). -/
def halvesOf (div : Byte) (v : Word) : List Segment :=
  [.timed (symOf v).level1 (symOf v).length1 div, .timed (symOf v).level2 (symOf v).length2 div]

end Sys2Proof.Machine
end

