-- ==== Sys2Proof/Safety.lean ====
section
/-! DEFINITION. The terms claims about runs use: the observation and the end of a run (00_scope.md R17, 60_exceptions.md R168,
R169), and the invariant every step keeps. -/

namespace Sys2Proof.Machine

/-- What a claim is stated through: the results, the waveform, and the two marks (R17). -/
structure Observation where
  results : List Result
  wave : List Segment
  fault : Option FaultRecord
  refused : Option RefusalRecord
deriving DecidableEq, Repr

/-- The observation of a run at a state (R17). -/
def State.observation (s : State) : Observation where
  results := s.results
  wave := s.wave
  fault := s.fault
  refused := s.refused

/-- The observation of a final run, whose marks are clear (R169). -/
def State.finalObservation (s : State) : List Result × List Segment := (s.results, s.wave)

/-- A run is final: every command completed, the caller Ready, the channel Idle, no fault, no refusal (R169). -/
structure State.Final (s : State) : Prop where
  noCommand : s.pending = []
  callerReady : s.caller = .ready
  channelIdle : s.txState = .idle
  noFault : s.fault = none
  noRefusal : s.refused = none

/-- A run that ends at the state satisfies a postcondition: it is final, and its observation meets it. A faulted, a refused
and a stuck run satisfy none (R17, R168). -/
def State.Satisfies (s : State) (post : List Result × List Segment → Prop) : Prop := s.Final ∧ post s.finalObservation

/-- The caller is stuck: it waits and the channel hangs (R168). -/
structure State.Stuck (s : State) : Prop where
  callerWaits : ∃ j sender, s.caller = .waiting j sender
  channelHung : s.txState = .hung

/-- A plan's `k` is at most the half-symbols of `len` symbols (R136). -/
def Plan.Bounded (len : Nat) (p : Plan) : Prop := p.stop len ≤ 2 * len

/-- The pin outside a transmission: the idle level once the channel is configured and has a pin, undriven before (R29). -/
def State.restingPin (s : State) : PinOut :=
  match s.chConf with
  | none => .undriven
  | some conf => if s.pinAssigned then .driven conf.idleLevel else .undriven

/-- The caller issues its next command now: it is Ready, and no fault and no refusal is marked (R32, R154, R156). -/
structure State.Issuing (s : State) : Prop where
  callerReady : s.caller = .ready
  noFault : s.fault = none
  noRefusal : s.refused = none

/-- The channel accepts a sequence under the settings `conf`: configured, with a pin, the carrier off, not Busy (R130). -/
structure State.Accepts (s : State) (conf : ChConf) : Prop where
  configured : s.chConf = some conf
  pinAssigned : s.pinAssigned = true
  carrierOff : conf.carrierEn = false
  notBusy : s.txState ≠ .busy

/-- A symbol word whose two lengths are not zero. -/
def BothLengths (v : Word) : Prop := (symOf v).length1 ≠ 0 ∧ (symOf v).length2 ≠ 0

/-- The pin, where one is assigned, is one of VALID_PIN (R23). -/
def State.PinLegal (s : State) : Prop := ∀ p, s.chPin = some p → Config.validPin p = true

/-- What holds while a transmission is in flight, `tx_state = Busy`. -/
structure State.Transmitting (s : State) : Prop where
  callerWaits : ∃ j sender, s.caller = .waiting j sender
  noResult : s.txResult = none
  configured : ∃ conf, s.chConf = some conf ∧ conf.carrierEn = false
  pinAssigned : s.pinAssigned = true
  planned : ∃ p, s.txPlan = some p ∧ p.Bounded s.txLen ∧ s.txPos ≤ p.stop s.txLen
  symbols : ∀ i, i < s.txLen → ∃ v, ChMem.read s.chMem i = some v ∧ BothLengths v
  pinDriven : ∃ l, s.pinOut = .driven l

/-- The command a waiting caller waits in fits the index it waits at (R31, R32, R116). -/
def State.SenderFits (s : State) (j : Nat) : Sender → Prop
  | .pulseSequence => j = 0
  | .sendOne => j = 0 ∧ s.drvBound = true
  | .sendMany colors => j < colors.length ∧ s.drvBound = true

/-- The invariant of the block: what holds after reset and after every step from a state where it holds. -/
structure State.Inv (s : State) : Prop where
  /-- CH_MEM keeps its canonical form (log 8). -/
  memoryForm : ChMem.wf s.chMem = true
  /-- CH_MEM has no word at or above CHAN_CAP (R45). -/
  memoryWithin : ChMem.within Config.chanCap s.chMem = true
  /-- The divider is legal (R21). -/
  dividerLegal : ∀ conf, s.chConf = some conf → conf.clockDiv ≠ 0#8
  /-- A bound driver has a configured channel with a pin and a table well-formed at its tick rate (R112). -/
  bound : ∀ t, s.drvTable = some t → ∃ conf, s.chConf = some conf ∧ s.pinAssigned = true ∧
    wfError Config.periodTolNs (Config.tickHz conf.clockDiv) (symOf t.1) (symOf t.2) = none
  /-- `tx_len` is at most CHAN_CAP (R20). -/
  lengthFits : s.txLen ≤ Config.chanCap
  /-- `tx_pos` is at most `2 * tx_len` (R20). -/
  positionFits : s.txPos ≤ 2 * s.txLen
  /-- While Busy a transmission is in flight (R24). -/
  busy : s.txState = .busy → s.Transmitting
  /-- While Hung the caller waits for ever and the pin is Unknown (R138). -/
  hung : s.txState = .hung → (∃ j sender, s.caller = .waiting j sender) ∧ s.txResult = none ∧ s.pinOut = .unknown
  /-- While Idle the pin rests (R29, R145). -/
  idle : s.txState = .idle → s.pinOut = s.restingPin
  /-- A Ready caller leaves no transmission and no result behind (R53, R55). -/
  ready : s.caller = .ready → s.txState = .idle ∧ s.txResult = none
  /-- A waiting caller's command fits its index. -/
  sender : ∀ j sender, s.caller = .waiting j sender → s.SenderFits j sender
  /-- A caller that waits with the channel Idle and no result is inside SEND_MANY (log 11). -/
  between : ∀ j sender, s.caller = .waiting j sender → s.txState = .idle → s.txResult = none →
    ∃ colors, sender = .sendMany colors
  /-- At most one of the two marks is set (R154, R156). -/
  oneMark : s.fault = none ∨ s.refused = none
  /-- A marked block transmits nothing (R154, R156). -/
  markedIdle : (s.fault ≠ none ∨ s.refused ≠ none) → s.txState = .idle

end Sys2Proof.Machine
end

