-- ==== Sys2Proof/Certificates/Slice0/Obligations.lean ====
section
/-! DEFINITION. The statements about the block, each with the rules of spec/ it formalises. A statement that names
`Config.drawGap`, `Config.drawPlan` or an OPEN parameter holds whatever those are (log 4, log 5). -/

open Sys2Proof Sys2Proof.Machine

/-! ## Encoding -/

/-- The example words of R69 to R74, R76 to R78, and a SEND_PULSE_SEQUENCE in the layout of R75, decode to the commands the
rules give them, and leave the words after them. -/
def Obligations.SpecWordsDecode : Prop :=
  ∀ (validPin : Byte → Bool) (rest : List Word), validPin 18#8 = true →
    decode validPin (0x01000100#32 :: rest) = .ok (.configure false false 1#8) rest ∧
    decode validPin (0x01000103#32 :: rest) = .ok (.configure true true 1#8) rest ∧
    decode validPin (0x02000012#32 :: rest) = .ok (.assignPin 18#8) rest ∧
    decode validPin (0x03000000#32 :: 0x190#32 :: 0x04C4B400#32 :: rest) = .ok (.deriveTicks 400#32 80000000#32) rest ∧
    decode validPin (0x04000000#32 :: 0x190#32 :: 0x352#32 :: 0x320#32 :: 0x1C2#32 :: 0x04C4B400#32 :: rest) =
      .ok (.buildTable 400#32 850#32 800#32 450#32 80000000#32) rest ∧
    decode validPin (0x05800000#32 :: 0x00448020#32 :: 0x00248040#32 :: rest) =
      .ok (.encodeColor 0x800000#24 0x00448020#32 0x00248040#32) rest ∧
    decode validPin (0x06123456#32 :: rest) = .ok (.pack ⟨0x12#8, 0x34#8, 0x56#8⟩) rest ∧
    decode validPin (0x07000200#32 :: 0x00248040#32 :: 0x00448020#32 :: rest) =
      .ok (.sendPulseSequence .oneShot [0x00248040#32, 0x00448020#32]) rest ∧
    decode validPin (0x08000000#32 :: 0x00448020#32 :: 0x00248040#32 :: rest) =
      .ok (.driverNew 0x00448020#32 0x00248040#32) rest ∧
    decode validPin (0x09008000#32 :: rest) = .ok (.sendOne ⟨0x00#8, 0x80#8, 0x00#8⟩) rest ∧
    decode validPin (0x0A000002#32 :: 0x00FF0000#32 :: 0x000000FF#32 :: rest) =
      .ok (.sendMany [⟨0xFF#8, 0x00#8, 0x00#8⟩, ⟨0x00#8, 0x00#8, 0xFF#8⟩]) rest

/-- Decoding the words of any well-formed command, whatever follows them, gives the command back and leaves what follows
(R66 to R78, R84). -/
def Obligations.DecodeOfEncodeGivesCommand : Prop :=
  ∀ (validPin : Byte → Bool) (i : Instr) (rest : List Word), i.wf validPin = true →
    decode validPin (encode i ++ rest) = .ok i rest

/-- Words that decode to a command are exactly that command's words followed by the rest, and the command is well-formed:
every command has one spelling (R66 to R78, R80, R84). -/
def Obligations.DecodedWordsAreEncoded : Prop :=
  ∀ (validPin : Byte → Bool) (ws rest : List Word) (i : Instr), decode validPin ws = .ok i rest →
    i.wf validPin = true ∧ ws = encode i ++ rest

/-- R79: word 0 with opcode 0x00 or 0x0B to 0xFF is refused with R_RESERVED_OPCODE, and no other word 0 is. -/
def Obligations.ReservedOpcodeRefused : Prop :=
  ∀ (validPin : Byte → Bool) (w0 : Word) (ws : List Word),
    decode validPin (w0 :: ws) = .refused .reservedOpcode ↔ w0.toNat / 2 ^ 24 = 0 ∨ 0x0B ≤ w0.toNat / 2 ^ 24

/-- R80: each reserved field of word 0 that is not zero refuses the words with R_RESERVED_FIELD, whatever the rest of word 0
and the operand words are; and so does a reserved field of a colour word of a SEND_MANY whose word 0 and length are
right. -/
def Obligations.ReservedFieldRefused : Prop :=
  (∀ (validPin : Byte → Bool) (w0 : Word) (ws : List Word) (opcode lo len : Nat),
    (opcode, lo, len) ∈ [(0x01, 16, 8), (0x01, 2, 6), (0x02, 8, 16), (0x03, 0, 24), (0x04, 0, 24), (0x08, 0, 24),
      (0x07, 16, 8), (0x07, 1, 7), (0x0A, 16, 8)] →
    w0.toNat / 2 ^ 24 = opcode → w0.toNat / 2 ^ lo % 2 ^ len ≠ 0 →
    decode validPin (w0 :: ws) = .refused .reservedField) ∧
  (∀ (validPin : Byte → Bool) (w0 : Word) (ws : List Word) (v : Word),
    w0.toNat / 2 ^ 16 = 0x0A00 → w0.toNat % 2 ^ 16 ≤ ws.length → v ∈ ws.take (w0.toNat % 2 ^ 16) →
    v.toNat / 2 ^ 24 ≠ 0 → decode validPin (w0 :: ws) = .refused .reservedField)

/-- The refusals of values of word 0, for words whose reserved fields are zero: R_CLKDIV_ZERO (R69), R_PIN_INVALID (R70),
R_MODE and then R_LENGTH_ZERO (R75, R157). -/
def Obligations.WordZeroValuesRefused : Prop :=
  ∀ (validPin : Byte → Bool) (ws : List Word),
    (∀ carrier idle : Bool, decode validPin
      ((0x01#8 ++ 0#8 ++ 0#8 ++ 0#6 ++ BitVec.ofBool carrier ++ BitVec.ofBool idle) :: ws) = .refused .clkDivZero) ∧
    (∀ pin : Byte, validPin pin = false → decode validPin ((0x02#8 ++ 0#16 ++ pin) :: ws) = .refused .pinInvalid) ∧
    (∀ n : Byte, decode validPin ((0x07#8 ++ 0#8 ++ n ++ 0#7 ++ 1#1) :: ws) = .refused .mode) ∧
    decode validPin (0x07000000#32 :: ws) = .refused .lengthZero

/-- R81: a word 0 that passes the checks of word 0 is refused with R_TRUNCATED where fewer words follow than its opcode and count
ask for, whatever those words are; so is a SEND_MANY cut short whose colour words have a reserved field that is not zero, since
R_TRUNCATED comes before the reserved field of an operand word (R157), and so are the words of a well-formed command with at least
one there and at least one missing at the end. (No word at all is refused so too, by log 12.) -/
def Obligations.TruncatedWordsRefused : Prop :=
  (∀ (validPin : Byte → Bool) (op : Opcode) (w0 : Word) (ws : List Word), Opcode.ofCode (opcodeField w0) = some op →
    fieldsZero op.reservedFields w0 = true → op.valueRefusal validPin w0 = none → ws.length < op.operandWords w0 →
    decode validPin (w0 :: ws) = .refused .truncated) ∧
  (∀ (validPin : Byte → Bool) (w0 : Word) (ws : List Word), w0.toNat / 2 ^ 16 = 0x0A00 → ws.length < w0.toNat % 2 ^ 16 →
    decode validPin (w0 :: ws) = .refused .truncated) ∧
  (∀ (validPin : Byte → Bool) (i : Instr) (k : Nat), i.wf validPin = true → 0 < k → k < (encode i).length →
    decode validPin ((encode i).take k) = .refused .truncated)

/-- R63: the bits of a symbol word, and that a word and its symbol determine each other: `sym_word(sym_of(v)) = v`, and
`sym_of(sym_word(s)) = s` where both lengths are at most DUR_MAX. -/
def Obligations.SymbolWordLayout : Prop :=
  (∀ v : Word, symOf v =
    { level1 := v.getLsbD 15, length1 := v.toNat % 2 ^ 15, level2 := v.getLsbD 31, length2 := v.toNat / 2 ^ 16 % 2 ^ 15 } ∧
    symWord (symOf v) = v) ∧
  (∀ s : PulseSymbol, s.length1 ≤ Config.durMax → s.length2 ≤ Config.durMax → symOf (symWord s) = s)

/-- R49: command words written out as bytes, least significant byte first, read back as the same words. -/
def Obligations.CommandBytesLeastFirst : Prop :=
  (∀ w : Word, bytesOfWords [w] = [BitVec.ofNat 8 w.toNat, BitVec.ofNat 8 (w.toNat / 2 ^ 8),
    BitVec.ofNat 8 (w.toNat / 2 ^ 16), BitVec.ofNat 8 (w.toNat / 2 ^ 24)]) ∧
  (∀ ws : List Word, wordsOfBytes (bytesOfWords ws) = ws)

/-! ## BitTimingTable -/

/-- R88: DERIVE_TICKS returns the tick count, exact halves rounded up, below 2^35, and writes nothing else. -/
def Obligations.DeriveTicksReturnsTicks : Prop :=
  ∀ (ns hz : Word) (s : State), s.caller = .ready →
    exec (.deriveTicks ns hz) s =
      .next { s with results := s.results ++
        [.ok (.ticks ((2 * ns.toNat * hz.toNat + 1000000000) / (2 * 1000000000)))] } ∧
    (2 * ns.toNat * hz.toNat + 1000000000) / (2 * 1000000000) < 2 ^ 35

/-- Tick counts do not fall as the clock rate rises (R89, which the spec derives from R88). -/
def Obligations.TicksMonotoneInClock : Prop :=
  ∀ ns hzA hzB : Nat, hzA < hzB → ticksOf ns hzA ≤ ticksOf ns hzB

/-- The reference duration is recovered from its ticks up to half a tick: `|ns(DERIVE_TICKS(x, hz)) - x| <= 10^9 / (2 * hz)`
(R99, which the spec derives from R88). -/
def Obligations.TicksWithinHalfATick : Prop :=
  ∀ ns hz : Nat, 0 < hz → |nanoseconds hz (ticksOf ns hz) - (ns : ℚ)| ≤ 10 ^ 9 / (2 * (hz : ℚ))

/-- R90 to R96: a table is well-formed exactly when the five checks hold, and the error is that of the first check that
fails; a table given as symbol words always passes WF_FIT (R93). -/
def Obligations.FirstFailedCheckIsReported : Prop :=
  (∀ (tol hz : Nat) (v0 v1 : Word), wfError tol hz (symOf v0) (symOf v1) ≠ some .overflow) ∧
  ∀ (tol hz : Nat) (t0 t1 : PulseSymbol),
    let levels := t0.level1 = true ∧ t0.level2 = false ∧ t1.level1 = true ∧ t1.level2 = false
    let nonzero := 1 ≤ t0.length1 ∧ 1 ≤ t0.length2 ∧ 1 ≤ t1.length1 ∧ 1 ≤ t1.length2
    let fits := t0.length1 ≤ 32767 ∧ t0.length2 ≤ 32767 ∧ t1.length1 ≤ 32767 ∧ t1.length2 ≤ 32767
    let discriminates := highTicks t1 > highTicks t0
    let periods :=
      |(((t1.length1 + t1.length2 : Nat) : Int)) - ((t0.length1 + t0.length2 : Nat) : Int)| * 1000000000 ≤ ((tol * hz : Nat) : Int)
    (wfError tol hz t0 t1 = none ↔ levels ∧ nonzero ∧ fits ∧ discriminates ∧ periods) ∧
    (wfError tol hz t0 t1 = some .levels ↔ ¬ levels) ∧
    (wfError tol hz t0 t1 = some .zeroLength ↔ levels ∧ ¬ nonzero) ∧
    (wfError tol hz t0 t1 = some .overflow ↔ levels ∧ nonzero ∧ ¬ fits) ∧
    (wfError tol hz t0 t1 = some .discrimination ↔ levels ∧ nonzero ∧ fits ∧ ¬ discriminates) ∧
    (wfError tol hz t0 t1 = some .period ↔ levels ∧ nonzero ∧ fits ∧ discriminates ∧ ¬ periods)

/-- R97: BUILD_TABLE derives the four lengths, reports the first failed check, else returns the two symbol words; it writes
its result only. -/
def Obligations.BuildTableReturnsTable : Prop :=
  ∀ (t0h t0l t1h t1l hz : Word) (s : State), s.caller = .ready →
    let a := ticksOf t0h.toNat hz.toNat
    let b := ticksOf t0l.toNat hz.toNat
    let c := ticksOf t1h.toNat hz.toNat
    let d := ticksOf t1l.toNat hz.toNat
    exec (.buildTable t0h t0l t1h t1l hz) s = .next { s with results := s.results ++ [
      if a = 0 ∨ b = 0 ∨ c = 0 ∨ d = 0 then .buildErr .zeroLength
      else if a > 32767 ∨ b > 32767 ∨ c > 32767 ∨ d > 32767 then .buildErr .overflow
      else if ¬ c > a then .buildErr .discrimination
      else if |((c + d : Nat) : Int) - ((a + b : Nat) : Int)| * 1000000000 > ((Config.periodTolNs * hz.toNat : Nat) : Int) then
        .buildErr .period
      else .ok (.table (symWord ⟨true, a, false, b⟩) (symWord ⟨true, c, false, d⟩))] }

/-- BUILD_TABLE and the checks of a bound table agree: it returns a table exactly when the derived symbols pass them at
its own clock rate, the words then spell those symbols, and its error is the checks' (R96, R97); E_LEVELS cannot come. -/
def Obligations.BuildTableAgreesWithChecks : Prop :=
  ∀ tol t0h t0l t1h t1l hz : Nat,
    let t0 : PulseSymbol := ⟨true, ticksOf t0h hz, false, ticksOf t0l hz⟩
    let t1 : PulseSymbol := ⟨true, ticksOf t1h hz, false, ticksOf t1l hz⟩
    wfError tol hz t0 t1 ≠ some .levels ∧
    (∀ e, wfError tol hz t0 t1 = some e → buildTable tol t0h t0l t1h t1l hz = .buildErr e) ∧
    (wfError tol hz t0 t1 = none → ∃ w0 w1, buildTable tol t0h t0l t1h t1l hz = .ok (.table w0 w1) ∧
      symOf w0 = t0 ∧ symOf w1 = t1)

/-! ## PulseEncoder -/

/-- R100: PACK returns the three channel bytes in the block's wire order, for each of the six orders of R101. -/
def Obligations.PackReturnsWireOrder : Prop :=
  ∀ (r g b : Byte) (s : State), s.caller = .ready →
    exec (.pack ⟨r, g, b⟩) s = .next { s with results := s.results ++ [.ok (.color (
      match Config.channelOrder with
      | .rgb => r ++ g ++ b
      | .rbg => r ++ b ++ g
      | .grb => g ++ r ++ b
      | .gbr => g ++ b ++ r
      | .brg => b ++ r ++ g
      | .bgr => b ++ g ++ r))] }

/-- PACK is a bijection from colours to packed words for each order (R100, derived there). -/
def Obligations.PackIsBijective : Prop :=
  ∀ order : ChannelOrder, Function.Bijective (packColor order)

/-- R102: ENCODE returns 24 symbols, entry `i` the symbol of bit `23 - i`, and writes its result only. -/
def Obligations.EncodeReturnsSequence : Prop :=
  ∀ (w : ColorWord) (t0 t1 : Word) (s : State), s.caller = .ready →
    ∃ seq : List Word, exec (.encodeColor w t0 t1) s = .next { s with results := s.results ++ [.ok (.sequence seq)] } ∧
      seq.length = 24 ∧ ∀ i, i < 24 → seq[i]? = some (if w.getLsbD (23 - i) then t1 else t0)

/-- The number of `t1word` entries of an encoded colour is its number of 1 bits, and every other entry is `t0word` (R104,
derived there). -/
def Obligations.EncodedOnesCountBits : Prop :=
  ∀ (w : ColorWord) (t0 t1 : Word), t0 ≠ t1 →
    (encodeSequence w t0 t1).count t1 = ((List.range 24).filter fun k => w.getLsbD k).length ∧
    (encodeSequence w t0 t1).count t0 + (encodeSequence w t0 t1).count t1 = 24

/-- Bit `k` of the channel at place `p` of the wire order is carried by entry `8 * p + (7 - k)` (R107, derived there). -/
def Obligations.ColorBitPosition : Prop :=
  ∀ (order : ChannelOrder) (c : ColorValue) (t0 t1 : Word) (p k : Nat) (ch : Channel), k < 8 →
    [(wireChannels order).1, (wireChannels order).2.1, (wireChannels order).2.2][p]? = some ch →
    (encodeSequence (packColor order c) t0 t1)[8 * p + (7 - k)]? = some (if (channelByte c ch).getLsbD k then t1 else t0)

/-- A well-formed table's encoder output has neither a terminator nor a half-zero symbol, so a colour is sent whole (R142's
last sentence, derived there from R91 and R104). -/
def Obligations.EncoderMakesNoZeroLengths : Prop :=
  ∀ (tol hz : Nat) (w : ColorWord) (t0 t1 : Word), wfError tol hz (symOf t0) (symOf t1) = none →
    firstTerminator (encodeSequence w t0 t1) = 24 ∧ ∀ v ∈ encodeSequence w t0 t1, isHalfZero v = false

/-! ## The channel's commands -/

/-- R126: CONFIGURE after the binding faults and changes nothing else; before it, it replaces all three settings, sets the
idle level on an assigned pin, and returns `Ok()`. -/
def Obligations.ConfigureSetsChannel : Prop :=
  ∀ (idle carrier : Bool) (div : Byte) (s : State), s.caller = .ready →
    (s.drvTable ≠ none → exec (.configure idle carrier div) s = .next (s.raiseFault .configAfterBind none .configure)) ∧
    (s.drvTable = none → exec (.configure idle carrier div) s = .next { s with
      chConf := some ⟨idle, carrier, div⟩
      pinOut := if s.chPin ≠ none then .driven idle else s.pinOut
      results := s.results ++ [.ok .unit] })

/-- R128: ASSIGN_PIN after the binding faults and changes nothing else; before it, it sets the pin, drives the idle level
of a configured channel on it, and returns `Ok()`. -/
def Obligations.AssignPinSetsPin : Prop :=
  ∀ (pin : Byte) (s : State), s.caller = .ready →
    (s.drvTable ≠ none → exec (.assignPin pin) s = .next (s.raiseFault .configAfterBind none .assignPin)) ∧
    (s.drvTable = none → s.chConf = none →
      exec (.assignPin pin) s = .next { s with chPin := some pin, results := s.results ++ [.ok .unit] }) ∧
    (∀ conf, s.drvTable = none → s.chConf = some conf →
      exec (.assignPin pin) s = .next { s with
        chPin := some pin
        pinOut := .driven conf.idleLevel
        results := s.results ++ [.ok .unit] })

/-- The acceptance step of R130: where the channel accepts and the sequence fits and has no half-zero symbol before its
first terminator, SEND_PULSE_SEQUENCE draws, copies the symbols and leaves the channel Busy and the caller waiting. The draws are
free (log 4). -/
def Obligations.SendPulseSequenceAccepted : Prop :=
  ∀ (seq : List Word) (conf : ChConf) (s : State), s.Accepts conf → seq.length ≤ Config.chanCap →
    (∀ v ∈ seq.take (firstTerminator seq), isHalfZero v = false) →
    exec (.sendPulseSequence .oneShot seq) s = .next { s with
      wave := s.wave ++ [.gap conf.idleLevel (Config.drawGap s.drawIndex)]
      chMem := ChMem.writeFrom 0 seq s.chMem
      txLen := firstTerminator seq
      txPos := 0
      txPlan := some (planOf (Config.drawPlan s.drawIndex (firstTerminator seq)))
      txResult := none
      txState := .busy
      caller := .waiting 0 .pulseSequence
      drawIndex := s.drawIndex + 1 }

/-- The checks of R130 in the order of R158: each turns SEND_PULSE_SEQUENCE away, a fault with its mark only, an error (R132,
R133) with its result only. The `Err(Busy)` clause holds in states no run reaches (R132). -/
def Obligations.SendPulseSequenceTurnedAway : Prop :=
  ∀ (seq : List Word) (conf : ChConf) (s : State), s.caller = .ready →
    (s.chConf = none → exec (.sendPulseSequence .oneShot seq) s = .next (s.raiseFault .notConfigured none .sendPulseSequence)) ∧
    (s.chConf = some conf → s.chPin = none →
      exec (.sendPulseSequence .oneShot seq) s = .next (s.raiseFault .noPin none .sendPulseSequence)) ∧
    (s.chConf = some conf → s.chPin ≠ none → conf.carrierEn = true →
      exec (.sendPulseSequence .oneShot seq) s = .next (s.raiseFault .carrierEnabled none .sendPulseSequence)) ∧
    (s.chConf = some conf → s.chPin ≠ none → conf.carrierEn = false → s.txState = .busy →
      exec (.sendPulseSequence .oneShot seq) s = .next { s with results := s.results ++ [.txErr .busy] }) ∧
    (s.Accepts conf → Config.chanCap < seq.length →
      exec (.sendPulseSequence .oneShot seq) s = .next { s with results := s.results ++ [.txErr .overrun] }) ∧
    (s.Accepts conf → seq.length ≤ Config.chanCap → (∃ v ∈ seq.take (firstTerminator seq), isHalfZero v = true) →
      exec (.sendPulseSequence .oneShot seq) s = .next (s.raiseFault .halfZeroSymbol none .sendPulseSequence))

/-- `m` of R130 and R142 is the index of the first terminator of R61, the length where there is none. -/
def Obligations.FirstTerminatorIsFirst : Prop :=
  ∀ seq : List Word, firstTerminator seq ≤ seq.length ∧
    (∀ i v, i < firstTerminator seq → seq[i]? = some v → ¬ ((symOf v).length1 = 0 ∧ (symOf v).length2 = 0)) ∧
    (firstTerminator seq < seq.length →
      ∃ v, seq[firstTerminator seq]? = some v ∧ (symOf v).length1 = 0 ∧ (symOf v).length2 = 0)

/-- The frame of an accepted SEND_PULSE_SEQUENCE in CH_MEM (R54, R130): word `i` below `n` is symbol `i` of the command, every
word outside is as before; and the settings, the pin, the table, the results and the marks are unchanged. -/
def Obligations.AcceptedSequenceInBuffer : Prop :=
  ∀ (seq : List Word) (s t : State), exec (.sendPulseSequence .oneShot seq) s = .next t → s.txState ≠ .busy → t.txState = .busy →
    (∀ i, i < seq.length → ChMem.read t.chMem i = seq[i]?) ∧
    (∀ a, seq.length ≤ a → ChMem.read t.chMem a = ChMem.read s.chMem a) ∧
    t.chConf = s.chConf ∧ t.chPin = s.chPin ∧ t.drvTable = s.drvTable ∧ t.pinOut = s.pinOut ∧ t.results = s.results ∧
    t.fault = s.fault ∧ t.refused = s.refused ∧ t.issued = s.issued ∧ t.pending = s.pending

/-- The four commands that read no state write no state but `results` (R40): every other element, and every word of CH_MEM,
is as before. -/
def Obligations.PureCommandsWriteResultsOnly : Prop :=
  ∀ (i : Instr) (s t : State), s.caller = .ready →
    ((∃ ns hz, i = .deriveTicks ns hz) ∨ (∃ a b c d hz, i = .buildTable a b c d hz) ∨ (∃ c, i = .pack c) ∨
      (∃ w t0 t1, i = .encodeColor w t0 t1)) →
    exec i s = .next t →
    { t with results := s.results } = s ∧ (∃ r, t.results = s.results ++ [r]) ∧
      ∀ a, ChMem.read t.chMem a = ChMem.read s.chMem a

/-! ## The driver -/

/-- R111: DRIVER_NEW's four faults in the order written, each with its mark only, and its binding, for a table that
passes the checks at the channel's own tick rate (R112). -/
def Obligations.DriverNewBinds : Prop :=
  ∀ (t0 t1 : Word) (conf : ChConf) (s : State), s.caller = .ready →
    (s.drvTable ≠ none → exec (.driverNew t0 t1) s = .next (s.raiseFault .alreadyBound none .driverNew)) ∧
    (s.drvTable = none → s.chConf = none →
      exec (.driverNew t0 t1) s = .next (s.raiseFault .notConfigured none .driverNew)) ∧
    (s.drvTable = none → s.chConf = some conf → s.chPin = none →
      exec (.driverNew t0 t1) s = .next (s.raiseFault .noPin none .driverNew)) ∧
    (∀ e, s.drvTable = none → s.chConf = some conf → s.chPin ≠ none →
      wfError Config.periodTolNs (Config.tickHz conf.clockDiv) (symOf t0) (symOf t1) = some e →
      exec (.driverNew t0 t1) s = .next (s.raiseFault .tableInvalid (some e) .driverNew)) ∧
    (s.drvTable = none → s.chConf = some conf → s.chPin ≠ none →
      wfError Config.periodTolNs (Config.tickHz conf.clockDiv) (symOf t0) (symOf t1) = none →
      exec (.driverNew t0 t1) s = .next { s with drvTable := some (t0, t1), results := s.results ++ [.ok .unit] })

/-- The acceptance of SEND_ONE (R114): unbound it faults; bound to a table with no zero length, on a channel that accepts, it
hands the 24 symbols of the packed colour to the channel as one transmission and waits. The draws are free (log 4). -/
def Obligations.SendOneHandsOverColor : Prop :=
  ∀ (c : ColorValue) (s : State),
    (s.drvTable = none → exec (.sendOne c) s = .next (s.raiseFault .notBound none .sendOne)) ∧
    (∀ t0 t1 conf, s.drvTable = some (t0, t1) → s.Accepts conf → BothLengths t0 → BothLengths t1 →
      exec (.sendOne c) s = .next { s with
        wave := s.wave ++ [.gap conf.idleLevel (Config.drawGap s.drawIndex)]
        chMem := ChMem.writeFrom 0 (encodeSequence (packColor Config.channelOrder c) t0 t1) s.chMem
        txLen := 24
        txPos := 0
        txPlan := some (planOf (Config.drawPlan s.drawIndex 24))
        txResult := none
        txState := .busy
        caller := .waiting 0 .sendOne
        drawIndex := s.drawIndex + 1 })

/-- The first step of SEND_MANY (R116, R118): unbound it faults; bound, the empty list returns `Ok()` and writes its result
only; else colour 0 is handed over and the caller waits at index 0. The draws are free (log 4). -/
def Obligations.SendManyHandsOverFirstColor : Prop :=
  ∀ (colors : List ColorValue) (s : State),
    (s.drvTable = none → exec (.sendMany colors) s = .next (s.raiseFault .notBound none .sendMany)) ∧
    (s.drvTable ≠ none → s.caller = .ready →
      exec (.sendMany []) s = .next { s with results := s.results ++ [.ok .unit] }) ∧
    (∀ c rest t0 t1 conf, colors = c :: rest → s.drvTable = some (t0, t1) → s.Accepts conf → BothLengths t0 → BothLengths t1 →
      exec (.sendMany colors) s = .next { s with
        wave := s.wave ++ [.gap conf.idleLevel (Config.drawGap s.drawIndex)]
        chMem := ChMem.writeFrom 0 (encodeSequence (packColor Config.channelOrder c) t0 t1) s.chMem
        txLen := 24
        txPos := 0
        txPlan := some (planOf (Config.drawPlan s.drawIndex 24))
        txResult := none
        txState := .busy
        caller := .waiting 0 (.sendMany colors)
        drawIndex := s.drawIndex + 1 })

/-- The frame of an accepted SEND_ONE or SEND_MANY in CH_MEM (R114, R116, R130): words 0 to 23 are the symbols of the packed
colour, every word outside is as before; and the settings, the pin, the table, the results, the marks and the program are
unchanged. -/
def Obligations.AcceptedColorInBuffer : Prop :=
  ∀ (c : ColorValue) (others : List ColorValue) (i : Instr) (t0 t1 : Word) (s t : State),
    (i = .sendOne c ∨ i = .sendMany (c :: others)) → s.drvTable = some (t0, t1) → exec i s = .next t →
    s.txState ≠ .busy → t.txState = .busy →
    (∀ k, k < 24 → ChMem.read t.chMem k = (encodeSequence (packColor Config.channelOrder c) t0 t1)[k]?) ∧
    (∀ a, 24 ≤ a → ChMem.read t.chMem a = ChMem.read s.chMem a) ∧
    t.chConf = s.chConf ∧ t.chPin = s.chPin ∧ t.drvTable = s.drvTable ∧ t.pinOut = s.pinOut ∧ t.results = s.results ∧
    t.fault = s.fault ∧ t.refused = s.refused ∧ t.issued = s.issued ∧ t.pending = s.pending

/-- A bound SEND_ONE, or SEND_MANY at its first colour, is turned away by the channel's own checks in the order of R158, a fault
under the command's own opcode with its mark only, an error as its result only (R119). All but the carrier's clause hold in states
no run reaches. That a SEND_MANY that faults at colour 0 leaves the caller Ready is the model's choice (log 15). -/
def Obligations.SendColorTurnedAway : Prop :=
  ∀ (c : ColorValue) (others : List ColorValue) (i : Instr) (op : Opcode) (t0 t1 : Word) (conf : ChConf) (s : State),
    (i = .sendOne c ∧ op = .sendOne ∨ i = .sendMany (c :: others) ∧ op = .sendMany) → s.caller = .ready →
    s.drvTable = some (t0, t1) →
    (s.chConf = none → exec i s = .next (s.raiseFault .notConfigured none op)) ∧
    (s.chConf = some conf → s.chPin = none → exec i s = .next (s.raiseFault .noPin none op)) ∧
    (s.chConf = some conf → s.chPin ≠ none → conf.carrierEn = true →
      exec i s = .next (s.raiseFault .carrierEnabled none op)) ∧
    (s.chConf = some conf → s.chPin ≠ none → conf.carrierEn = false → s.txState = .busy →
      exec i s = .next { s with results := s.results ++ [.txErr .busy] }) ∧
    (s.Accepts conf →
      (∃ v ∈ (encodeSequence (packColor Config.channelOrder c) t0 t1).take
        (firstTerminator (encodeSequence (packColor Config.channelOrder c) t0 t1)), isHalfZero v = true) →
      exec i s = .next (s.raiseFault .halfZeroSymbol none op))

/-- SEND_MANY goes on (R116): after an `Ok` at colour `j` with a colour left, the caller waits at `j + 1`, and from there the
next step hands over colour `j + 1` (log 11 for the two steps). The draws are free (log 4). -/
def Obligations.SendManyGoesOn : Prop :=
  ∀ (j : Nat) (colors : List ColorValue) (s : State), s.fault = none → s.refused = none →
    s.caller = .waiting j (.sendMany colors) →
    (s.txResult = some .ok → j + 1 < colors.length →
      step s = .next { s with txResult := none, caller := .waiting (j + 1) (.sendMany colors) }) ∧
    (∀ c t0 t1 conf, s.txResult = none → s.txState = .idle → colors[j]? = some c → s.drvTable = some (t0, t1) →
      s.Accepts conf → BothLengths t0 → BothLengths t1 →
      step s = .next { s with
        wave := s.wave ++ [.gap conf.idleLevel (Config.drawGap s.drawIndex)]
        chMem := ChMem.writeFrom 0 (encodeSequence (packColor Config.channelOrder c) t0 t1) s.chMem
        txLen := 24
        txPos := 0
        txPlan := some (planOf (Config.drawPlan s.drawIndex 24))
        txResult := none
        txState := .busy
        caller := .waiting j (.sendMany colors)
        drawIndex := s.drawIndex + 1 })

/-- The end of a send (R116, R117, R119, R149): the first error of a SEND_MANY is its result and no further colour is sent; an
`Ok` at its last colour is its result; a SEND_PULSE_SEQUENCE or SEND_ONE returns the transmission's result unchanged. The caller
is Ready, and nothing else changes. -/
def Obligations.SendReturnsOutcome : Prop :=
  ∀ (j : Nat) (x : Sender) (s : State), s.fault = none → s.refused = none → s.caller = .waiting j x →
    (∀ e, s.txResult = some (.err e) →
      step s = .next { s with txResult := none, caller := .ready, results := s.results ++ [.txErr e] }) ∧
    (s.txResult = some .ok → (x = .pulseSequence ∨ x = .sendOne ∨ ∃ colors, x = .sendMany colors ∧ colors.length ≤ j + 1) →
      step s = .next { s with txResult := none, caller := .ready, results := s.results ++ [.ok .unit] })

/-! ## The transmitter -/

/-- R135, the emission: while Busy with the caller waiting and `tx_pos` before the plan's stop, the step emits half-symbol
`tx_pos` of CH_MEM: the first half of word `i` for `tx_pos = 2 * i`, the second for `2 * i + 1`, with the
divider in force beside it (R10; log 14). -/
def Obligations.TransmitterEmitsHalf : Prop :=
  ∀ (j i : Nat) (x : Sender) (plan : Plan) (v : Word) (conf : ChConf) (s : State), s.caller = .waiting j x →
    s.txResult = none → s.txState = .busy → s.chConf = some conf → s.txPlan = some plan → s.txPos < plan.stop s.txLen → i < s.txLen → ChMem.read s.chMem i = some v →
    (s.txPos = 2 * i → step s = .next { s with
      pinOut := .driven (symOf v).level1
      wave := s.wave ++ [.timed (symOf v).level1 (symOf v).length1 conf.clockDiv]
      txPos := s.txPos + 1 }) ∧
    (s.txPos = 2 * i + 1 → step s = .next { s with
      pinOut := .driven (symOf v).level2
      wave := s.wave ++ [.timed (symOf v).level2 (symOf v).length2 conf.clockDiv]
      txPos := s.txPos + 1 })

/-- The three ends of a transmission (R137, R138, R139): completed, failed with `e` after `k` half-symbols, hung after `k`. -/
def Obligations.TransmissionEnds : Prop :=
  ∀ (j k : Nat) (e : TxError) (x : Sender) (conf : ChConf) (s : State), s.caller = .waiting j x → s.txResult = none →
    s.txState = .busy → s.chConf = some conf →
    (s.txPlan = some .complete → s.txPos = 2 * s.txLen → step s = .next { s with
      pinOut := .driven conf.idleLevel
      txResult := some .ok
      txState := .idle }) ∧
    (s.txPlan = some (.fail e k) → s.txPos = k → step s = .next { s with
      pinOut := .driven conf.idleLevel
      txResult := some (.err e)
      txState := .idle }) ∧
    (s.txPlan = some (.hang k) → s.txPos = k → step s = .next { s with pinOut := .unknown, txState := .hung })

/-- A stuck caller stays stuck (R138, R168): no step of any agent lifts it, and the state is never final; only reset lifts it. That
the block still answers a step there, the same state, is the model's choice (log 2): the spec says only that no agent has a step. -/
def Obligations.StuckForEver : Prop :=
  ∀ (n : Nat) (s : State), s.Stuck → s.txResult = none → s.fault = none → s.refused = none →
    Host.Core.run Sys2Proof.core n s = .next s ∧ ¬ s.Final ∧ ¬ s.applyReset.Stuck

/-- A transmission follows its plan to the end (R135 to R139, R144): from its first half-symbol on, `stop + 1` steps put the
first `stop` half-symbols of the buffered sequence on the waveform, in order and with nothing between them, and end as the
plan says; nothing else changes. Each segment records the divider in force (log 14). -/
def Obligations.TransmissionFollowsPlan : Prop :=
  ∀ (seq : List Word) (plan : Plan) (conf : ChConf) (j : Nat) (x : Sender) (s : State),
    s.caller = .waiting j x → s.txResult = none → s.txState = .busy → s.chConf = some conf → s.txPlan = some plan →
    plan.Bounded s.txLen → s.txPos = 0 → s.txLen = seq.length → (∀ i, i < seq.length → ChMem.read s.chMem i = seq[i]?) →
    Host.Core.run Sys2Proof.core (plan.stop s.txLen + 1) s = .next { s with
      wave := s.wave ++ (seq.flatMap (halvesOf conf.clockDiv)).take (plan.stop s.txLen)
      txPos := plan.stop s.txLen
      pinOut := match plan with
        | .complete => .driven conf.idleLevel
        | .fail _ _ => .driven conf.idleLevel
        | .hang _ => .unknown
      txResult := match plan with
        | .complete => some .ok
        | .fail e _ => some (.err e)
        | .hang _ => none
      txState := match plan with
        | .complete => .idle
        | .fail _ _ => .idle
        | .hang _ => .hung }

/-- One colour from the driver to the wire (R107, R114, R115, R137): whatever plan the environment drew, were it
`Complete`, then 50 steps after SEND_ONE is accepted the waveform has gained the gap and the 48 half-symbols of the packed colour
and nothing else, the result is `Ok()`, and the driver is ready for the next colour. The drawn gap is free (log 4), and each
segment records the divider in force (log 14). -/
def Obligations.SendOneEmitsColor : Prop :=
  ∀ (c : ColorValue) (t0 t1 : Word) (conf : ChConf) (s t : State), s.fault = none → s.refused = none →
    s.drvTable = some (t0, t1) → s.Accepts conf → BothLengths t0 → BothLengths t1 → exec (.sendOne c) s = .next t →
    ∃ u, Host.Core.run Sys2Proof.core 50 { t with txPlan := some .complete } = .next u ∧
      u.wave = s.wave ++ [.gap conf.idleLevel (Config.drawGap s.drawIndex)] ++
        (encodeSequence (packColor Config.channelOrder c) t0 t1).flatMap (halvesOf conf.clockDiv) ∧
      u.results = s.results ++ [.ok .unit] ∧ u.caller = .ready ∧ u.txState = .idle ∧ u.txResult = none ∧
      u.pinOut = .driven conf.idleLevel ∧ u.drvTable = s.drvTable ∧ u.chConf = s.chConf ∧ u.chPin = s.chPin ∧
      u.pending = s.pending ∧ u.fault = none ∧ u.refused = none

/-- The ticks of one colour (R147, derived there): 24 periods of bit 0 with each 1 bit's period exchanged for bit 1's. -/
def Obligations.OneColorDuration : Prop :=
  ∀ (div : Byte) (w : ColorWord) (t0 t1 : Word),
    let ones := ((List.range 24).filter fun k => w.getLsbD k).length
    timedTicks ((encodeSequence w t0 t1).flatMap (halvesOf div)) =
      (24 - ones) * periodTicks (symOf t0) + ones * periodTicks (symOf t1) ∧ ones ≤ 24

/-! ## Whole-machine rules -/

/-- The block right after reset meets the invariant. -/
def Obligations.ResetMeetsInvariant : Prop := State.reset.Inv

/-- Every step from a state that meets the invariant leads to one that meets it. -/
def Obligations.StepKeepsInvariant : Prop :=
  ∀ s t : State, s.Inv → step s = .next t → t.Inv

/-- A step keeps the pin one of VALID_PIN (R23): the decoder refuses any other (R70). -/
def Obligations.StepKeepsPinLegal : Prop :=
  ∀ s t : State, s.PinLegal → step s = .next t → t.PinLegal

/-- Where the invariant holds, the block stops only as a fault or a refusal it has marked says (R154, R156): the model's own
fault (log 9) and the refusal of an instruction without a meaning never come. -/
def Obligations.StopsOnlyWhereMarked : Prop :=
  ∀ s : State, s.Inv →
    (∀ f, step s = .fault f → ∃ r, s.fault = some r ∧ f = .raised r) ∧
    (∀ f, step s = .refused f → ∃ r, s.refused = some r ∧ f = .noCommand r)

/-- Where the invariant holds, a step that changes nothing is one at the end of a run or of a caller stuck for ever (R169,
R168). -/
def Obligations.RestsOnlyWhenFinalOrStuck : Prop :=
  ∀ s : State, s.Inv → step s = .next s → s.Final ∨ s.Stuck

/-- Where the invariant holds, at most one of the two agents has a step (R134, R179): while Busy the caller has none. -/
def Obligations.AgentsTakeTurns : Prop :=
  ∀ s : State, s.Inv → s.txState = .busy → callerStep s = none

/-- Every command answers a next state, whatever the state: the command's fault as a mark and nothing else, or one result with the
caller Ready and the marks as they were, or an accepted transmission with the channel Busy, the caller waiting and no result yet (R13, R150).
That a faulting command answers a next state, and not the host's fault at once, is the model's choice (log 3), and so is that a
SEND_MANY that faults at colour 0 leaves the caller as it was: R116 writes Waiting(0) first, the model follows R154 (log 15). -/
def Obligations.EveryCommandAnswers : Prop :=
  ∀ (i : Instr) (s : State), ∃ t, exec i s = .next t ∧
    ((∃ f d, t = s.raiseFault f d i.opcode) ∨
     (∃ r, t.results = s.results ++ [r] ∧ t.caller = .ready ∧ t.fault = s.fault ∧ t.refused = s.refused) ∨
     (∃ x, t.txState = .busy ∧ t.caller = .waiting 0 x ∧ t.results = s.results ∧ t.fault = s.fault ∧ t.refused = s.refused))

/-- The logs only grow (R33, R34): every step's `wave` and `results` begin with what they were. -/
def Obligations.LogsOnlyGrow : Prop :=
  ∀ s t : State, step s = .next t → s.wave <+: t.wave ∧ s.results <+: t.results

/-- Who writes the waveform (R33, R141, R145): a step that changes it appends one segment, the gap at the idle level of a
transmission accepted in that step, or a timed segment the transmitter emits while Busy, with the pin at its level and under the
divider of CH_CONF (R10; log 14). -/
def Obligations.WaveformWriters : Prop :=
  ∀ s t : State, step s = .next t → t.wave ≠ s.wave →
    (∃ conf g, s.chConf = some conf ∧ s.txState ≠ .busy ∧ t.txState = .busy ∧ t.wave = s.wave ++ [.gap conf.idleLevel g]) ∨
    (∃ conf l n, s.chConf = some conf ∧ s.txState = .busy ∧ t.pinOut = .driven l ∧
      t.wave = s.wave ++ [.timed l n conf.clockDiv])

/-- Only an accepted transmission writes CH_MEM (R25, R46, R54): while Busy no step changes it. -/
def Obligations.BufferWriters : Prop :=
  ∀ s t : State, step s = .next t → t.chMem ≠ s.chMem → s.txState ≠ .busy ∧ t.txState = .busy

/-- R57: once bound, the driver's table is never rewritten. R123: nor are the channel's settings and its pin. -/
def Obligations.BoundChannelIsFrozen : Prop :=
  ∀ s t : State, step s = .next t → s.drvTable ≠ none →
    t.drvTable = s.drvTable ∧ t.chConf = s.chConf ∧ t.chPin = s.chPin

/-- What a fault leaves (R154): the mark, with the command's position (log 6), its opcode and the detail, and nothing else. In a
faulted state the caller has no further step: the block answers the fault (log 3), and whatever step it still takes keeps the mark
and returns no result; the run satisfies no postcondition (R17). -/
def Obligations.FaultIsSticky : Prop :=
  (∀ (f : FaultName) (d : Option BuildError) (op : Opcode) (s : State),
    s.raiseFault f d op = { s with fault := some ⟨f, s.results.length, op.code, d⟩ }) ∧
  (∀ (s : State) (r : FaultRecord), s.fault = some r →
    (s.txState ≠ .busy → step s = .fault (.raised r)) ∧
    (∀ t, step s = .next t → t.fault = some r ∧ t.results = s.results ∧ t.pending = s.pending) ∧
    s.observation.fault = some r ∧ ∀ post, ¬ s.Satisfies post)

/-- What a refusal leaves (R156): the mark, with the reason and the command's index (log 6), and nothing else. In a refused state
the caller has no further step: the block answers the refusal (log 3), and whatever step it still takes keeps the mark and returns
no result; the run satisfies no postcondition (R17). -/
def Obligations.RefusalIsSticky : Prop :=
  (∀ (r : RefusalReason) (s : State), s.refuse r = { s with refused := some ⟨r, s.results.length⟩ }) ∧
  (∀ (s : State) (r : RefusalRecord), s.refused = some r → s.fault = none →
    (s.txState ≠ .busy → step s = .refused (.noCommand r)) ∧
    (∀ t, step s = .next t → t.refused = some r ∧ t.results = s.results ∧ t.pending = s.pending) ∧
    s.observation.refused = some r ∧ ∀ post, ¬ s.Satisfies post)

/-! ## Step, program and reset -/

/-- A step runs the decoded command: where the caller issues and the words to be issued decode to `i`, the step is `exec i` in the
state with those words behind the caller (log 1); decode comes first (R157). -/
def Obligations.StepRunsDecoded : Prop :=
  ∀ (i : Instr) (rest : List Word) (s : State), s.Issuing → decode Config.validPin s.pending = .ok i rest →
    step s = exec i { s with
      issued := s.issued ++ s.pending.take (s.pending.length - rest.length)
      pending := rest }

/-- A step refuses words that spell no command (R156, R157): the mark is written and nothing else. That the command's index is the
number of results is the model's inference (log 6). The sequence is not empty: at its end the run is over. -/
def Obligations.StepRefusesWords : Prop :=
  ∀ (r : RefusalReason) (s : State), s.Issuing → s.pending ≠ [] → decode Config.validPin s.pending = .refused r →
    step s = .next { s with refused := some ⟨r, s.results.length⟩ }

/-- R42: the value of every element after reset. -/
def Obligations.ResetLeavesSpecValues : Prop :=
  State.reset.chConf = none ∧ State.reset.configured = false ∧ State.reset.chPin = none ∧ State.reset.pinAssigned = false ∧
  State.reset.txState = .idle ∧ (∀ i, ChMem.read State.reset.chMem i = none) ∧ State.reset.txLen = 0 ∧ State.reset.txPos = 0 ∧
  State.reset.txPlan = none ∧ State.reset.txResult = none ∧ State.reset.pinOut = .undriven ∧ State.reset.drvBound = false ∧
  State.reset.drvTable = none ∧ State.reset.caller = .ready ∧ State.reset.wave = [] ∧ State.reset.results = [] ∧
  State.reset.fault = none ∧ State.reset.refused = none

/-- The reset event (R170, R171) at any point of a run: every element of R42 is as after reset, whatever it was, and the words to
be issued are the caller's program from its first command on (log 13). -/
def Obligations.ResetEventRestarts : Prop :=
  ∀ s : State, s.applyReset =
    { State.reset with pending := s.issued ++ s.pending, drawIndex := s.drawIndex } ∧ s.applyReset.Inv

/-! ## Reading the waveform -/

/-- R143: the LED chain's reading of the boundary before a gap of level `level` and `g` nanoseconds, `L` being `g` plus the low
timed segments that end the transmission before it; what those segments are: the low ones after its last high one, each as long
as its ticks at its divider's rate (R10); and the readings of a whole waveform: one for each two successive transmissions, each
of a gap and the timed segments after it. That a partial transmission counts as one, and that a boundary at which
the pin moved is read like any other, are the model's choices (log 16, log 17). -/
def Obligations.LatchReadingBands : Prop :=
  (∀ (latchNs : Nat) (rate : Byte → Nat) (first : List Segment) (level : Level) (g : Nat),
    let L : ℚ := g + trailingLow rate first
    (level = false → latchNs < g → latchReading latchNs rate first level g = .endOfFrame) ∧
    (level = false → L ≤ latchNs → latchReading latchNs rate first level g = .sameFrame) ∧
    (level = false → g ≤ latchNs → (latchNs : ℚ) < L → latchReading latchNs rate first level g = .either) ∧
    (level = true → latchReading latchNs rate first level g = .noReading)) ∧
  (∀ (rate : Byte → Nat) (before : List Segment) (lows : List (Nat × Byte)),
    (before = [] ∨ ∃ pre t div, before = pre ++ [.timed true t div]) →
    trailingLow rate (before ++ lows.map fun x => .timed false x.1 x.2) =
      (lows.map fun x => (x.1 : ℚ) * 10 ^ 9 / (rate x.2 : ℚ)).sum) ∧
  (∀ (latchNs : Nat) (rate : Byte → Nat) (sent : List (Level × Nat × List Segment)),
    (∀ x ∈ sent, ∀ y ∈ x.2.2, ∃ l t div, y = .timed l t div) →
    latchReadings latchNs rate (sent.flatMap fun x => .gap x.1 x.2.1 :: x.2.2) =
      (sent.zip sent.tail).map fun p => latchReading latchNs rate p.1.2.2 p.2.1 p.2.2.1)

/-- The physical line (R140): merging adjacent segments of equal level leaves no two neighbours of equal level and keeps the total
duration in nanoseconds, a gap's own and a timed segment's `t * 10^9 / TICK_HZ(div)` at the divider it was emitted under (R10),
here the `rate`; the block's own line is read at its TICK_HZ. That a segment records its divider, and that
the segments of two pins make one line, are the model's choices (log 14, log 17). -/
def Obligations.PhysicalLineMerges : Prop :=
  (∀ (rate : Byte → Nat) (w : List Segment),
    ((physicalLine rate w).map Prod.snd).sum = (w.map fun x => match x with
      | .timed _ t div => (t : ℚ) * 10 ^ 9 / (rate div : ℚ)
      | .gap _ g => (g : ℚ)).sum ∧
    List.IsChain (fun a b : Level × ℚ => a.1 ≠ b.1) (physicalLine rate w)) ∧
  ∀ s : State, s.pinLine = physicalLine Config.tickHz s.wave
end

