-- ==== Sys2Proof/Laws/State.lean ====
section
/-! SUPPORT. One lemma per named update of State and field: what the field holds after the update. -/

namespace Sys2Proof.Machine

@[simp] theorem State.raiseFault_chConf (s : State) (f : FaultName) (d : Option BuildError) (op : Opcode) :
    (s.raiseFault f d op).chConf = s.chConf := rfl
@[simp] theorem State.raiseFault_chPin (s : State) (f : FaultName) (d : Option BuildError) (op : Opcode) :
    (s.raiseFault f d op).chPin = s.chPin := rfl
@[simp] theorem State.raiseFault_txState (s : State) (f : FaultName) (d : Option BuildError) (op : Opcode) :
    (s.raiseFault f d op).txState = s.txState := rfl
@[simp] theorem State.raiseFault_chMem (s : State) (f : FaultName) (d : Option BuildError) (op : Opcode) :
    (s.raiseFault f d op).chMem = s.chMem := rfl
@[simp] theorem State.raiseFault_txLen (s : State) (f : FaultName) (d : Option BuildError) (op : Opcode) :
    (s.raiseFault f d op).txLen = s.txLen := rfl
@[simp] theorem State.raiseFault_txPos (s : State) (f : FaultName) (d : Option BuildError) (op : Opcode) :
    (s.raiseFault f d op).txPos = s.txPos := rfl
@[simp] theorem State.raiseFault_txPlan (s : State) (f : FaultName) (d : Option BuildError) (op : Opcode) :
    (s.raiseFault f d op).txPlan = s.txPlan := rfl
@[simp] theorem State.raiseFault_txResult (s : State) (f : FaultName) (d : Option BuildError) (op : Opcode) :
    (s.raiseFault f d op).txResult = s.txResult := rfl
@[simp] theorem State.raiseFault_pinOut (s : State) (f : FaultName) (d : Option BuildError) (op : Opcode) :
    (s.raiseFault f d op).pinOut = s.pinOut := rfl
@[simp] theorem State.raiseFault_drvTable (s : State) (f : FaultName) (d : Option BuildError) (op : Opcode) :
    (s.raiseFault f d op).drvTable = s.drvTable := rfl
@[simp] theorem State.raiseFault_caller (s : State) (f : FaultName) (d : Option BuildError) (op : Opcode) :
    (s.raiseFault f d op).caller = s.caller := rfl
@[simp] theorem State.raiseFault_wave (s : State) (f : FaultName) (d : Option BuildError) (op : Opcode) :
    (s.raiseFault f d op).wave = s.wave := rfl
@[simp] theorem State.raiseFault_results (s : State) (f : FaultName) (d : Option BuildError) (op : Opcode) :
    (s.raiseFault f d op).results = s.results := rfl
@[simp] theorem State.raiseFault_fault (s : State) (f : FaultName) (d : Option BuildError) (op : Opcode) :
    (s.raiseFault f d op).fault = some { name := f, index := s.commandIndex, opcode := op.code, detail := d } := rfl
@[simp] theorem State.raiseFault_refused (s : State) (f : FaultName) (d : Option BuildError) (op : Opcode) :
    (s.raiseFault f d op).refused = s.refused := rfl
@[simp] theorem State.raiseFault_issued (s : State) (f : FaultName) (d : Option BuildError) (op : Opcode) :
    (s.raiseFault f d op).issued = s.issued := rfl
@[simp] theorem State.raiseFault_pending (s : State) (f : FaultName) (d : Option BuildError) (op : Opcode) :
    (s.raiseFault f d op).pending = s.pending := rfl
@[simp] theorem State.raiseFault_drawIndex (s : State) (f : FaultName) (d : Option BuildError) (op : Opcode) :
    (s.raiseFault f d op).drawIndex = s.drawIndex := rfl

@[simp] theorem State.refuse_chConf (s : State) (r : RefusalReason) : (s.refuse r).chConf = s.chConf := rfl
@[simp] theorem State.refuse_chPin (s : State) (r : RefusalReason) : (s.refuse r).chPin = s.chPin := rfl
@[simp] theorem State.refuse_txState (s : State) (r : RefusalReason) : (s.refuse r).txState = s.txState := rfl
@[simp] theorem State.refuse_chMem (s : State) (r : RefusalReason) : (s.refuse r).chMem = s.chMem := rfl
@[simp] theorem State.refuse_txLen (s : State) (r : RefusalReason) : (s.refuse r).txLen = s.txLen := rfl
@[simp] theorem State.refuse_txPos (s : State) (r : RefusalReason) : (s.refuse r).txPos = s.txPos := rfl
@[simp] theorem State.refuse_txPlan (s : State) (r : RefusalReason) : (s.refuse r).txPlan = s.txPlan := rfl
@[simp] theorem State.refuse_txResult (s : State) (r : RefusalReason) : (s.refuse r).txResult = s.txResult := rfl
@[simp] theorem State.refuse_pinOut (s : State) (r : RefusalReason) : (s.refuse r).pinOut = s.pinOut := rfl
@[simp] theorem State.refuse_drvTable (s : State) (r : RefusalReason) : (s.refuse r).drvTable = s.drvTable := rfl
@[simp] theorem State.refuse_caller (s : State) (r : RefusalReason) : (s.refuse r).caller = s.caller := rfl
@[simp] theorem State.refuse_wave (s : State) (r : RefusalReason) : (s.refuse r).wave = s.wave := rfl
@[simp] theorem State.refuse_results (s : State) (r : RefusalReason) : (s.refuse r).results = s.results := rfl
@[simp] theorem State.refuse_fault (s : State) (r : RefusalReason) : (s.refuse r).fault = s.fault := rfl
@[simp] theorem State.refuse_refused (s : State) (r : RefusalReason) :
    (s.refuse r).refused = some { reason := r, index := s.commandIndex } := rfl
@[simp] theorem State.refuse_issued (s : State) (r : RefusalReason) : (s.refuse r).issued = s.issued := rfl
@[simp] theorem State.refuse_pending (s : State) (r : RefusalReason) : (s.refuse r).pending = s.pending := rfl
@[simp] theorem State.refuse_drawIndex (s : State) (r : RefusalReason) : (s.refuse r).drawIndex = s.drawIndex := rfl

@[simp] theorem State.finish_chConf (s : State) (r : Result) : (s.finish r).chConf = s.chConf := rfl
@[simp] theorem State.finish_chPin (s : State) (r : Result) : (s.finish r).chPin = s.chPin := rfl
@[simp] theorem State.finish_txState (s : State) (r : Result) : (s.finish r).txState = s.txState := rfl
@[simp] theorem State.finish_chMem (s : State) (r : Result) : (s.finish r).chMem = s.chMem := rfl
@[simp] theorem State.finish_txLen (s : State) (r : Result) : (s.finish r).txLen = s.txLen := rfl
@[simp] theorem State.finish_txPos (s : State) (r : Result) : (s.finish r).txPos = s.txPos := rfl
@[simp] theorem State.finish_txPlan (s : State) (r : Result) : (s.finish r).txPlan = s.txPlan := rfl
@[simp] theorem State.finish_txResult (s : State) (r : Result) : (s.finish r).txResult = s.txResult := rfl
@[simp] theorem State.finish_pinOut (s : State) (r : Result) : (s.finish r).pinOut = s.pinOut := rfl
@[simp] theorem State.finish_drvTable (s : State) (r : Result) : (s.finish r).drvTable = s.drvTable := rfl
@[simp] theorem State.finish_caller (s : State) (r : Result) : (s.finish r).caller = .ready := rfl
@[simp] theorem State.finish_wave (s : State) (r : Result) : (s.finish r).wave = s.wave := rfl
@[simp] theorem State.finish_results (s : State) (r : Result) : (s.finish r).results = s.results ++ [r] := rfl
@[simp] theorem State.finish_fault (s : State) (r : Result) : (s.finish r).fault = s.fault := rfl
@[simp] theorem State.finish_refused (s : State) (r : Result) : (s.finish r).refused = s.refused := rfl
@[simp] theorem State.finish_issued (s : State) (r : Result) : (s.finish r).issued = s.issued := rfl
@[simp] theorem State.finish_pending (s : State) (r : Result) : (s.finish r).pending = s.pending := rfl
@[simp] theorem State.finish_drawIndex (s : State) (r : Result) : (s.finish r).drawIndex = s.drawIndex := rfl

@[simp] theorem State.startTransmission_chConf (s : State) (idle : Level) (x : Sender) (j : Nat) (q : List Word) (m : Nat) :
    (s.startTransmission idle x j q m).chConf = s.chConf := rfl
@[simp] theorem State.startTransmission_chPin (s : State) (idle : Level) (x : Sender) (j : Nat) (q : List Word) (m : Nat) :
    (s.startTransmission idle x j q m).chPin = s.chPin := rfl
@[simp] theorem State.startTransmission_txState (s : State) (idle : Level) (x : Sender) (j : Nat) (q : List Word) (m : Nat) :
    (s.startTransmission idle x j q m).txState = .busy := rfl
@[simp] theorem State.startTransmission_chMem (s : State) (idle : Level) (x : Sender) (j : Nat) (q : List Word) (m : Nat) :
    (s.startTransmission idle x j q m).chMem = ChMem.writeFrom 0 q s.chMem := rfl
@[simp] theorem State.startTransmission_txLen (s : State) (idle : Level) (x : Sender) (j : Nat) (q : List Word) (m : Nat) :
    (s.startTransmission idle x j q m).txLen = m := rfl
@[simp] theorem State.startTransmission_txPos (s : State) (idle : Level) (x : Sender) (j : Nat) (q : List Word) (m : Nat) :
    (s.startTransmission idle x j q m).txPos = 0 := rfl
@[simp] theorem State.startTransmission_txPlan (s : State) (idle : Level) (x : Sender) (j : Nat) (q : List Word) (m : Nat) :
    (s.startTransmission idle x j q m).txPlan = some (planOf (Config.drawPlan s.drawIndex m)) := rfl
@[simp] theorem State.startTransmission_txResult (s : State) (idle : Level) (x : Sender) (j : Nat) (q : List Word) (m : Nat) :
    (s.startTransmission idle x j q m).txResult = none := rfl
@[simp] theorem State.startTransmission_pinOut (s : State) (idle : Level) (x : Sender) (j : Nat) (q : List Word) (m : Nat) :
    (s.startTransmission idle x j q m).pinOut = s.pinOut := rfl
@[simp] theorem State.startTransmission_drvTable (s : State) (idle : Level) (x : Sender) (j : Nat) (q : List Word) (m : Nat) :
    (s.startTransmission idle x j q m).drvTable = s.drvTable := rfl
@[simp] theorem State.startTransmission_caller (s : State) (idle : Level) (x : Sender) (j : Nat) (q : List Word) (m : Nat) :
    (s.startTransmission idle x j q m).caller = .waiting j x := rfl
@[simp] theorem State.startTransmission_wave (s : State) (idle : Level) (x : Sender) (j : Nat) (q : List Word) (m : Nat) :
    (s.startTransmission idle x j q m).wave = s.wave ++ [.gap idle (Config.drawGap s.drawIndex)] := rfl
@[simp] theorem State.startTransmission_results (s : State) (idle : Level) (x : Sender) (j : Nat) (q : List Word) (m : Nat) :
    (s.startTransmission idle x j q m).results = s.results := rfl
@[simp] theorem State.startTransmission_fault (s : State) (idle : Level) (x : Sender) (j : Nat) (q : List Word) (m : Nat) :
    (s.startTransmission idle x j q m).fault = s.fault := rfl
@[simp] theorem State.startTransmission_refused (s : State) (idle : Level) (x : Sender) (j : Nat) (q : List Word) (m : Nat) :
    (s.startTransmission idle x j q m).refused = s.refused := rfl
@[simp] theorem State.startTransmission_issued (s : State) (idle : Level) (x : Sender) (j : Nat) (q : List Word) (m : Nat) :
    (s.startTransmission idle x j q m).issued = s.issued := rfl
@[simp] theorem State.startTransmission_pending (s : State) (idle : Level) (x : Sender) (j : Nat) (q : List Word) (m : Nat) :
    (s.startTransmission idle x j q m).pending = s.pending := rfl
@[simp] theorem State.startTransmission_drawIndex (s : State) (idle : Level) (x : Sender) (j : Nat) (q : List Word) (m : Nat) :
    (s.startTransmission idle x j q m).drawIndex = s.drawIndex + 1 := rfl

@[simp] theorem State.setConf_chConf (s : State) (c : ChConf) : (s.setConf c).chConf = some c := rfl
@[simp] theorem State.setConf_chPin (s : State) (c : ChConf) : (s.setConf c).chPin = s.chPin := rfl
@[simp] theorem State.setConf_txState (s : State) (c : ChConf) : (s.setConf c).txState = s.txState := rfl
@[simp] theorem State.setConf_chMem (s : State) (c : ChConf) : (s.setConf c).chMem = s.chMem := rfl
@[simp] theorem State.setConf_txLen (s : State) (c : ChConf) : (s.setConf c).txLen = s.txLen := rfl
@[simp] theorem State.setConf_txPos (s : State) (c : ChConf) : (s.setConf c).txPos = s.txPos := rfl
@[simp] theorem State.setConf_txPlan (s : State) (c : ChConf) : (s.setConf c).txPlan = s.txPlan := rfl
@[simp] theorem State.setConf_txResult (s : State) (c : ChConf) : (s.setConf c).txResult = s.txResult := rfl
@[simp] theorem State.setConf_pinOut (s : State) (c : ChConf) :
    (s.setConf c).pinOut = if s.pinAssigned then .driven c.idleLevel else s.pinOut := rfl
@[simp] theorem State.setConf_drvTable (s : State) (c : ChConf) : (s.setConf c).drvTable = s.drvTable := rfl
@[simp] theorem State.setConf_caller (s : State) (c : ChConf) : (s.setConf c).caller = s.caller := rfl
@[simp] theorem State.setConf_wave (s : State) (c : ChConf) : (s.setConf c).wave = s.wave := rfl
@[simp] theorem State.setConf_results (s : State) (c : ChConf) : (s.setConf c).results = s.results := rfl
@[simp] theorem State.setConf_fault (s : State) (c : ChConf) : (s.setConf c).fault = s.fault := rfl
@[simp] theorem State.setConf_refused (s : State) (c : ChConf) : (s.setConf c).refused = s.refused := rfl
@[simp] theorem State.setConf_issued (s : State) (c : ChConf) : (s.setConf c).issued = s.issued := rfl
@[simp] theorem State.setConf_pending (s : State) (c : ChConf) : (s.setConf c).pending = s.pending := rfl
@[simp] theorem State.setConf_drawIndex (s : State) (c : ChConf) : (s.setConf c).drawIndex = s.drawIndex := rfl

@[simp] theorem State.setPin_chConf (s : State) (p : Byte) : (s.setPin p).chConf = s.chConf := rfl
@[simp] theorem State.setPin_chPin (s : State) (p : Byte) : (s.setPin p).chPin = some p := rfl
@[simp] theorem State.setPin_txState (s : State) (p : Byte) : (s.setPin p).txState = s.txState := rfl
@[simp] theorem State.setPin_chMem (s : State) (p : Byte) : (s.setPin p).chMem = s.chMem := rfl
@[simp] theorem State.setPin_txLen (s : State) (p : Byte) : (s.setPin p).txLen = s.txLen := rfl
@[simp] theorem State.setPin_txPos (s : State) (p : Byte) : (s.setPin p).txPos = s.txPos := rfl
@[simp] theorem State.setPin_txPlan (s : State) (p : Byte) : (s.setPin p).txPlan = s.txPlan := rfl
@[simp] theorem State.setPin_txResult (s : State) (p : Byte) : (s.setPin p).txResult = s.txResult := rfl
@[simp] theorem State.setPin_pinOut (s : State) (p : Byte) : (s.setPin p).pinOut =
    match s.chConf with
    | some conf => .driven conf.idleLevel
    | none => s.pinOut := rfl
@[simp] theorem State.setPin_drvTable (s : State) (p : Byte) : (s.setPin p).drvTable = s.drvTable := rfl
@[simp] theorem State.setPin_caller (s : State) (p : Byte) : (s.setPin p).caller = s.caller := rfl
@[simp] theorem State.setPin_wave (s : State) (p : Byte) : (s.setPin p).wave = s.wave := rfl
@[simp] theorem State.setPin_results (s : State) (p : Byte) : (s.setPin p).results = s.results := rfl
@[simp] theorem State.setPin_fault (s : State) (p : Byte) : (s.setPin p).fault = s.fault := rfl
@[simp] theorem State.setPin_refused (s : State) (p : Byte) : (s.setPin p).refused = s.refused := rfl
@[simp] theorem State.setPin_issued (s : State) (p : Byte) : (s.setPin p).issued = s.issued := rfl
@[simp] theorem State.setPin_pending (s : State) (p : Byte) : (s.setPin p).pending = s.pending := rfl
@[simp] theorem State.setPin_drawIndex (s : State) (p : Byte) : (s.setPin p).drawIndex = s.drawIndex := rfl

@[simp] theorem State.bindDriver_chConf (s : State) (t0 t1 : Word) : (s.bindDriver t0 t1).chConf = s.chConf := rfl
@[simp] theorem State.bindDriver_chPin (s : State) (t0 t1 : Word) : (s.bindDriver t0 t1).chPin = s.chPin := rfl
@[simp] theorem State.bindDriver_txState (s : State) (t0 t1 : Word) : (s.bindDriver t0 t1).txState = s.txState := rfl
@[simp] theorem State.bindDriver_chMem (s : State) (t0 t1 : Word) : (s.bindDriver t0 t1).chMem = s.chMem := rfl
@[simp] theorem State.bindDriver_txLen (s : State) (t0 t1 : Word) : (s.bindDriver t0 t1).txLen = s.txLen := rfl
@[simp] theorem State.bindDriver_txPos (s : State) (t0 t1 : Word) : (s.bindDriver t0 t1).txPos = s.txPos := rfl
@[simp] theorem State.bindDriver_txPlan (s : State) (t0 t1 : Word) : (s.bindDriver t0 t1).txPlan = s.txPlan := rfl
@[simp] theorem State.bindDriver_txResult (s : State) (t0 t1 : Word) : (s.bindDriver t0 t1).txResult = s.txResult := rfl
@[simp] theorem State.bindDriver_pinOut (s : State) (t0 t1 : Word) : (s.bindDriver t0 t1).pinOut = s.pinOut := rfl
@[simp] theorem State.bindDriver_drvTable (s : State) (t0 t1 : Word) : (s.bindDriver t0 t1).drvTable = some (t0, t1) := rfl
@[simp] theorem State.bindDriver_caller (s : State) (t0 t1 : Word) : (s.bindDriver t0 t1).caller = s.caller := rfl
@[simp] theorem State.bindDriver_wave (s : State) (t0 t1 : Word) : (s.bindDriver t0 t1).wave = s.wave := rfl
@[simp] theorem State.bindDriver_results (s : State) (t0 t1 : Word) : (s.bindDriver t0 t1).results = s.results := rfl
@[simp] theorem State.bindDriver_fault (s : State) (t0 t1 : Word) : (s.bindDriver t0 t1).fault = s.fault := rfl
@[simp] theorem State.bindDriver_refused (s : State) (t0 t1 : Word) : (s.bindDriver t0 t1).refused = s.refused := rfl
@[simp] theorem State.bindDriver_issued (s : State) (t0 t1 : Word) : (s.bindDriver t0 t1).issued = s.issued := rfl
@[simp] theorem State.bindDriver_pending (s : State) (t0 t1 : Word) : (s.bindDriver t0 t1).pending = s.pending := rfl
@[simp] theorem State.bindDriver_drawIndex (s : State) (t0 t1 : Word) : (s.bindDriver t0 t1).drawIndex = s.drawIndex := rfl

@[simp] theorem State.emitHalf_chConf (s : State) (l : Level) (t : Nat) (d : Byte) : (s.emitHalf l t d).chConf = s.chConf := rfl
@[simp] theorem State.emitHalf_chPin (s : State) (l : Level) (t : Nat) (d : Byte) : (s.emitHalf l t d).chPin = s.chPin := rfl
@[simp] theorem State.emitHalf_txState (s : State) (l : Level) (t : Nat) (d : Byte) : (s.emitHalf l t d).txState = s.txState := rfl
@[simp] theorem State.emitHalf_chMem (s : State) (l : Level) (t : Nat) (d : Byte) : (s.emitHalf l t d).chMem = s.chMem := rfl
@[simp] theorem State.emitHalf_txLen (s : State) (l : Level) (t : Nat) (d : Byte) : (s.emitHalf l t d).txLen = s.txLen := rfl
@[simp] theorem State.emitHalf_txPos (s : State) (l : Level) (t : Nat) (d : Byte) : (s.emitHalf l t d).txPos = s.txPos + 1 := rfl
@[simp] theorem State.emitHalf_txPlan (s : State) (l : Level) (t : Nat) (d : Byte) : (s.emitHalf l t d).txPlan = s.txPlan := rfl
@[simp] theorem State.emitHalf_txResult (s : State) (l : Level) (t : Nat) (d : Byte) : (s.emitHalf l t d).txResult = s.txResult := rfl
@[simp] theorem State.emitHalf_pinOut (s : State) (l : Level) (t : Nat) (d : Byte) : (s.emitHalf l t d).pinOut = .driven l := rfl
@[simp] theorem State.emitHalf_drvTable (s : State) (l : Level) (t : Nat) (d : Byte) : (s.emitHalf l t d).drvTable = s.drvTable := rfl
@[simp] theorem State.emitHalf_caller (s : State) (l : Level) (t : Nat) (d : Byte) : (s.emitHalf l t d).caller = s.caller := rfl
@[simp] theorem State.emitHalf_wave (s : State) (l : Level) (t : Nat) (d : Byte) : (s.emitHalf l t d).wave = s.wave ++ [.timed l t d] := rfl
@[simp] theorem State.emitHalf_results (s : State) (l : Level) (t : Nat) (d : Byte) : (s.emitHalf l t d).results = s.results := rfl
@[simp] theorem State.emitHalf_fault (s : State) (l : Level) (t : Nat) (d : Byte) : (s.emitHalf l t d).fault = s.fault := rfl
@[simp] theorem State.emitHalf_refused (s : State) (l : Level) (t : Nat) (d : Byte) : (s.emitHalf l t d).refused = s.refused := rfl
@[simp] theorem State.emitHalf_issued (s : State) (l : Level) (t : Nat) (d : Byte) : (s.emitHalf l t d).issued = s.issued := rfl
@[simp] theorem State.emitHalf_pending (s : State) (l : Level) (t : Nat) (d : Byte) : (s.emitHalf l t d).pending = s.pending := rfl
@[simp] theorem State.emitHalf_drawIndex (s : State) (l : Level) (t : Nat) (d : Byte) : (s.emitHalf l t d).drawIndex = s.drawIndex := rfl

@[simp] theorem State.endTransmission_chConf (s : State) (idle : Level) (r : TxOutcome) :
    (s.endTransmission idle r).chConf = s.chConf := rfl
@[simp] theorem State.endTransmission_chPin (s : State) (idle : Level) (r : TxOutcome) :
    (s.endTransmission idle r).chPin = s.chPin := rfl
@[simp] theorem State.endTransmission_txState (s : State) (idle : Level) (r : TxOutcome) :
    (s.endTransmission idle r).txState = .idle := rfl
@[simp] theorem State.endTransmission_chMem (s : State) (idle : Level) (r : TxOutcome) :
    (s.endTransmission idle r).chMem = s.chMem := rfl
@[simp] theorem State.endTransmission_txLen (s : State) (idle : Level) (r : TxOutcome) :
    (s.endTransmission idle r).txLen = s.txLen := rfl
@[simp] theorem State.endTransmission_txPos (s : State) (idle : Level) (r : TxOutcome) :
    (s.endTransmission idle r).txPos = s.txPos := rfl
@[simp] theorem State.endTransmission_txPlan (s : State) (idle : Level) (r : TxOutcome) :
    (s.endTransmission idle r).txPlan = s.txPlan := rfl
@[simp] theorem State.endTransmission_txResult (s : State) (idle : Level) (r : TxOutcome) :
    (s.endTransmission idle r).txResult = some r := rfl
@[simp] theorem State.endTransmission_pinOut (s : State) (idle : Level) (r : TxOutcome) :
    (s.endTransmission idle r).pinOut = .driven idle := rfl
@[simp] theorem State.endTransmission_drvTable (s : State) (idle : Level) (r : TxOutcome) :
    (s.endTransmission idle r).drvTable = s.drvTable := rfl
@[simp] theorem State.endTransmission_caller (s : State) (idle : Level) (r : TxOutcome) :
    (s.endTransmission idle r).caller = s.caller := rfl
@[simp] theorem State.endTransmission_wave (s : State) (idle : Level) (r : TxOutcome) :
    (s.endTransmission idle r).wave = s.wave := rfl
@[simp] theorem State.endTransmission_results (s : State) (idle : Level) (r : TxOutcome) :
    (s.endTransmission idle r).results = s.results := rfl
@[simp] theorem State.endTransmission_fault (s : State) (idle : Level) (r : TxOutcome) :
    (s.endTransmission idle r).fault = s.fault := rfl
@[simp] theorem State.endTransmission_refused (s : State) (idle : Level) (r : TxOutcome) :
    (s.endTransmission idle r).refused = s.refused := rfl
@[simp] theorem State.endTransmission_issued (s : State) (idle : Level) (r : TxOutcome) :
    (s.endTransmission idle r).issued = s.issued := rfl
@[simp] theorem State.endTransmission_pending (s : State) (idle : Level) (r : TxOutcome) :
    (s.endTransmission idle r).pending = s.pending := rfl
@[simp] theorem State.endTransmission_drawIndex (s : State) (idle : Level) (r : TxOutcome) :
    (s.endTransmission idle r).drawIndex = s.drawIndex := rfl

@[simp] theorem State.hang_chConf (s : State) : (s.hang).chConf = s.chConf := rfl
@[simp] theorem State.hang_chPin (s : State) : (s.hang).chPin = s.chPin := rfl
@[simp] theorem State.hang_txState (s : State) : (s.hang).txState = .hung := rfl
@[simp] theorem State.hang_chMem (s : State) : (s.hang).chMem = s.chMem := rfl
@[simp] theorem State.hang_txLen (s : State) : (s.hang).txLen = s.txLen := rfl
@[simp] theorem State.hang_txPos (s : State) : (s.hang).txPos = s.txPos := rfl
@[simp] theorem State.hang_txPlan (s : State) : (s.hang).txPlan = s.txPlan := rfl
@[simp] theorem State.hang_txResult (s : State) : (s.hang).txResult = s.txResult := rfl
@[simp] theorem State.hang_pinOut (s : State) : (s.hang).pinOut = .unknown := rfl
@[simp] theorem State.hang_drvTable (s : State) : (s.hang).drvTable = s.drvTable := rfl
@[simp] theorem State.hang_caller (s : State) : (s.hang).caller = s.caller := rfl
@[simp] theorem State.hang_wave (s : State) : (s.hang).wave = s.wave := rfl
@[simp] theorem State.hang_results (s : State) : (s.hang).results = s.results := rfl
@[simp] theorem State.hang_fault (s : State) : (s.hang).fault = s.fault := rfl
@[simp] theorem State.hang_refused (s : State) : (s.hang).refused = s.refused := rfl
@[simp] theorem State.hang_issued (s : State) : (s.hang).issued = s.issued := rfl
@[simp] theorem State.hang_pending (s : State) : (s.hang).pending = s.pending := rfl
@[simp] theorem State.hang_drawIndex (s : State) : (s.hang).drawIndex = s.drawIndex := rfl

@[simp] theorem State.issue_chConf (s : State) (rest : List Word) : (s.issue rest).chConf = s.chConf := rfl
@[simp] theorem State.issue_chPin (s : State) (rest : List Word) : (s.issue rest).chPin = s.chPin := rfl
@[simp] theorem State.issue_txState (s : State) (rest : List Word) : (s.issue rest).txState = s.txState := rfl
@[simp] theorem State.issue_chMem (s : State) (rest : List Word) : (s.issue rest).chMem = s.chMem := rfl
@[simp] theorem State.issue_txLen (s : State) (rest : List Word) : (s.issue rest).txLen = s.txLen := rfl
@[simp] theorem State.issue_txPos (s : State) (rest : List Word) : (s.issue rest).txPos = s.txPos := rfl
@[simp] theorem State.issue_txPlan (s : State) (rest : List Word) : (s.issue rest).txPlan = s.txPlan := rfl
@[simp] theorem State.issue_txResult (s : State) (rest : List Word) : (s.issue rest).txResult = s.txResult := rfl
@[simp] theorem State.issue_pinOut (s : State) (rest : List Word) : (s.issue rest).pinOut = s.pinOut := rfl
@[simp] theorem State.issue_drvTable (s : State) (rest : List Word) : (s.issue rest).drvTable = s.drvTable := rfl
@[simp] theorem State.issue_caller (s : State) (rest : List Word) : (s.issue rest).caller = s.caller := rfl
@[simp] theorem State.issue_wave (s : State) (rest : List Word) : (s.issue rest).wave = s.wave := rfl
@[simp] theorem State.issue_results (s : State) (rest : List Word) : (s.issue rest).results = s.results := rfl
@[simp] theorem State.issue_fault (s : State) (rest : List Word) : (s.issue rest).fault = s.fault := rfl
@[simp] theorem State.issue_refused (s : State) (rest : List Word) : (s.issue rest).refused = s.refused := rfl
@[simp] theorem State.issue_issued (s : State) (rest : List Word) :
    (s.issue rest).issued = s.issued ++ s.pending.take (s.pending.length - rest.length) := rfl
@[simp] theorem State.issue_pending (s : State) (rest : List Word) : (s.issue rest).pending = rest := rfl
@[simp] theorem State.issue_drawIndex (s : State) (rest : List Word) : (s.issue rest).drawIndex = s.drawIndex := rfl

@[simp] theorem State.takeResult_chConf (s : State) : (s.takeResult).chConf = s.chConf := rfl
@[simp] theorem State.takeResult_chPin (s : State) : (s.takeResult).chPin = s.chPin := rfl
@[simp] theorem State.takeResult_txState (s : State) : (s.takeResult).txState = s.txState := rfl
@[simp] theorem State.takeResult_chMem (s : State) : (s.takeResult).chMem = s.chMem := rfl
@[simp] theorem State.takeResult_txLen (s : State) : (s.takeResult).txLen = s.txLen := rfl
@[simp] theorem State.takeResult_txPos (s : State) : (s.takeResult).txPos = s.txPos := rfl
@[simp] theorem State.takeResult_txPlan (s : State) : (s.takeResult).txPlan = s.txPlan := rfl
@[simp] theorem State.takeResult_txResult (s : State) : (s.takeResult).txResult = none := rfl
@[simp] theorem State.takeResult_pinOut (s : State) : (s.takeResult).pinOut = s.pinOut := rfl
@[simp] theorem State.takeResult_drvTable (s : State) : (s.takeResult).drvTable = s.drvTable := rfl
@[simp] theorem State.takeResult_caller (s : State) : (s.takeResult).caller = s.caller := rfl
@[simp] theorem State.takeResult_wave (s : State) : (s.takeResult).wave = s.wave := rfl
@[simp] theorem State.takeResult_results (s : State) : (s.takeResult).results = s.results := rfl
@[simp] theorem State.takeResult_fault (s : State) : (s.takeResult).fault = s.fault := rfl
@[simp] theorem State.takeResult_refused (s : State) : (s.takeResult).refused = s.refused := rfl
@[simp] theorem State.takeResult_issued (s : State) : (s.takeResult).issued = s.issued := rfl
@[simp] theorem State.takeResult_pending (s : State) : (s.takeResult).pending = s.pending := rfl
@[simp] theorem State.takeResult_drawIndex (s : State) : (s.takeResult).drawIndex = s.drawIndex := rfl

@[simp] theorem State.waitFor_chConf (s : State) (j : Nat) (x : Sender) : (s.waitFor j x).chConf = s.chConf := rfl
@[simp] theorem State.waitFor_chPin (s : State) (j : Nat) (x : Sender) : (s.waitFor j x).chPin = s.chPin := rfl
@[simp] theorem State.waitFor_txState (s : State) (j : Nat) (x : Sender) : (s.waitFor j x).txState = s.txState := rfl
@[simp] theorem State.waitFor_chMem (s : State) (j : Nat) (x : Sender) : (s.waitFor j x).chMem = s.chMem := rfl
@[simp] theorem State.waitFor_txLen (s : State) (j : Nat) (x : Sender) : (s.waitFor j x).txLen = s.txLen := rfl
@[simp] theorem State.waitFor_txPos (s : State) (j : Nat) (x : Sender) : (s.waitFor j x).txPos = s.txPos := rfl
@[simp] theorem State.waitFor_txPlan (s : State) (j : Nat) (x : Sender) : (s.waitFor j x).txPlan = s.txPlan := rfl
@[simp] theorem State.waitFor_txResult (s : State) (j : Nat) (x : Sender) : (s.waitFor j x).txResult = s.txResult := rfl
@[simp] theorem State.waitFor_pinOut (s : State) (j : Nat) (x : Sender) : (s.waitFor j x).pinOut = s.pinOut := rfl
@[simp] theorem State.waitFor_drvTable (s : State) (j : Nat) (x : Sender) : (s.waitFor j x).drvTable = s.drvTable := rfl
@[simp] theorem State.waitFor_caller (s : State) (j : Nat) (x : Sender) : (s.waitFor j x).caller = .waiting j x := rfl
@[simp] theorem State.waitFor_wave (s : State) (j : Nat) (x : Sender) : (s.waitFor j x).wave = s.wave := rfl
@[simp] theorem State.waitFor_results (s : State) (j : Nat) (x : Sender) : (s.waitFor j x).results = s.results := rfl
@[simp] theorem State.waitFor_fault (s : State) (j : Nat) (x : Sender) : (s.waitFor j x).fault = s.fault := rfl
@[simp] theorem State.waitFor_refused (s : State) (j : Nat) (x : Sender) : (s.waitFor j x).refused = s.refused := rfl
@[simp] theorem State.waitFor_issued (s : State) (j : Nat) (x : Sender) : (s.waitFor j x).issued = s.issued := rfl
@[simp] theorem State.waitFor_pending (s : State) (j : Nat) (x : Sender) : (s.waitFor j x).pending = s.pending := rfl
@[simp] theorem State.waitFor_drawIndex (s : State) (j : Nat) (x : Sender) : (s.waitFor j x).drawIndex = s.drawIndex := rfl

@[simp] theorem State.load_chConf (s : State) (ws : List Word) : (s.load ws).chConf = s.chConf := rfl
@[simp] theorem State.load_chPin (s : State) (ws : List Word) : (s.load ws).chPin = s.chPin := rfl
@[simp] theorem State.load_txState (s : State) (ws : List Word) : (s.load ws).txState = s.txState := rfl
@[simp] theorem State.load_chMem (s : State) (ws : List Word) : (s.load ws).chMem = s.chMem := rfl
@[simp] theorem State.load_txLen (s : State) (ws : List Word) : (s.load ws).txLen = s.txLen := rfl
@[simp] theorem State.load_txPos (s : State) (ws : List Word) : (s.load ws).txPos = s.txPos := rfl
@[simp] theorem State.load_txPlan (s : State) (ws : List Word) : (s.load ws).txPlan = s.txPlan := rfl
@[simp] theorem State.load_txResult (s : State) (ws : List Word) : (s.load ws).txResult = s.txResult := rfl
@[simp] theorem State.load_pinOut (s : State) (ws : List Word) : (s.load ws).pinOut = s.pinOut := rfl
@[simp] theorem State.load_drvTable (s : State) (ws : List Word) : (s.load ws).drvTable = s.drvTable := rfl
@[simp] theorem State.load_caller (s : State) (ws : List Word) : (s.load ws).caller = s.caller := rfl
@[simp] theorem State.load_wave (s : State) (ws : List Word) : (s.load ws).wave = s.wave := rfl
@[simp] theorem State.load_results (s : State) (ws : List Word) : (s.load ws).results = s.results := rfl
@[simp] theorem State.load_fault (s : State) (ws : List Word) : (s.load ws).fault = s.fault := rfl
@[simp] theorem State.load_refused (s : State) (ws : List Word) : (s.load ws).refused = s.refused := rfl
@[simp] theorem State.load_issued (s : State) (ws : List Word) : (s.load ws).issued = s.issued := rfl
@[simp] theorem State.load_pending (s : State) (ws : List Word) : (s.load ws).pending = ws := rfl
@[simp] theorem State.load_drawIndex (s : State) (ws : List Word) : (s.load ws).drawIndex = s.drawIndex := rfl

@[simp] theorem State.raiseFault_pinAssigned (s : State) (f : FaultName) (d : Option BuildError) (op : Opcode) : (s.raiseFault f d op).pinAssigned = s.pinAssigned := rfl
@[simp] theorem State.raiseFault_drvBound (s : State) (f : FaultName) (d : Option BuildError) (op : Opcode) : (s.raiseFault f d op).drvBound = s.drvBound := rfl
@[simp] theorem State.raiseFault_configured (s : State) (f : FaultName) (d : Option BuildError) (op : Opcode) : (s.raiseFault f d op).configured = s.configured := rfl
@[simp] theorem State.raiseFault_commandIndex (s : State) (f : FaultName) (d : Option BuildError) (op : Opcode) : (s.raiseFault f d op).commandIndex = s.commandIndex := rfl
@[simp] theorem State.refuse_pinAssigned (s : State) (r : RefusalReason) : (s.refuse r).pinAssigned = s.pinAssigned := rfl
@[simp] theorem State.refuse_drvBound (s : State) (r : RefusalReason) : (s.refuse r).drvBound = s.drvBound := rfl
@[simp] theorem State.refuse_configured (s : State) (r : RefusalReason) : (s.refuse r).configured = s.configured := rfl
@[simp] theorem State.refuse_commandIndex (s : State) (r : RefusalReason) : (s.refuse r).commandIndex = s.commandIndex := rfl
@[simp] theorem State.finish_pinAssigned (s : State) (r : Result) : (s.finish r).pinAssigned = s.pinAssigned := rfl
@[simp] theorem State.finish_drvBound (s : State) (r : Result) : (s.finish r).drvBound = s.drvBound := rfl
@[simp] theorem State.finish_configured (s : State) (r : Result) : (s.finish r).configured = s.configured := rfl
@[simp] theorem State.startTransmission_pinAssigned (s : State) (idle : Level) (x : Sender) (j : Nat) (q : List Word) (m : Nat) : (s.startTransmission idle x j q m).pinAssigned = s.pinAssigned := rfl
@[simp] theorem State.startTransmission_drvBound (s : State) (idle : Level) (x : Sender) (j : Nat) (q : List Word) (m : Nat) : (s.startTransmission idle x j q m).drvBound = s.drvBound := rfl
@[simp] theorem State.startTransmission_configured (s : State) (idle : Level) (x : Sender) (j : Nat) (q : List Word) (m : Nat) : (s.startTransmission idle x j q m).configured = s.configured := rfl
@[simp] theorem State.startTransmission_commandIndex (s : State) (idle : Level) (x : Sender) (j : Nat) (q : List Word) (m : Nat) : (s.startTransmission idle x j q m).commandIndex = s.commandIndex := rfl
@[simp] theorem State.setConf_pinAssigned (s : State) (c : ChConf) : (s.setConf c).pinAssigned = s.pinAssigned := rfl
@[simp] theorem State.setConf_drvBound (s : State) (c : ChConf) : (s.setConf c).drvBound = s.drvBound := rfl
@[simp] theorem State.setConf_commandIndex (s : State) (c : ChConf) : (s.setConf c).commandIndex = s.commandIndex := rfl
@[simp] theorem State.setPin_drvBound (s : State) (p : Byte) : (s.setPin p).drvBound = s.drvBound := rfl
@[simp] theorem State.setPin_configured (s : State) (p : Byte) : (s.setPin p).configured = s.configured := rfl
@[simp] theorem State.setPin_commandIndex (s : State) (p : Byte) : (s.setPin p).commandIndex = s.commandIndex := rfl
@[simp] theorem State.bindDriver_pinAssigned (s : State) (t0 t1 : Word) : (s.bindDriver t0 t1).pinAssigned = s.pinAssigned := rfl
@[simp] theorem State.bindDriver_configured (s : State) (t0 t1 : Word) : (s.bindDriver t0 t1).configured = s.configured := rfl
@[simp] theorem State.bindDriver_commandIndex (s : State) (t0 t1 : Word) : (s.bindDriver t0 t1).commandIndex = s.commandIndex := rfl
@[simp] theorem State.emitHalf_pinAssigned (s : State) (l : Level) (t : Nat) (d : Byte) : (s.emitHalf l t d).pinAssigned = s.pinAssigned := rfl
@[simp] theorem State.emitHalf_drvBound (s : State) (l : Level) (t : Nat) (d : Byte) : (s.emitHalf l t d).drvBound = s.drvBound := rfl
@[simp] theorem State.emitHalf_configured (s : State) (l : Level) (t : Nat) (d : Byte) : (s.emitHalf l t d).configured = s.configured := rfl
@[simp] theorem State.emitHalf_commandIndex (s : State) (l : Level) (t : Nat) (d : Byte) : (s.emitHalf l t d).commandIndex = s.commandIndex := rfl
@[simp] theorem State.endTransmission_pinAssigned (s : State) (idle : Level) (r : TxOutcome) : (s.endTransmission idle r).pinAssigned = s.pinAssigned := rfl
@[simp] theorem State.endTransmission_drvBound (s : State) (idle : Level) (r : TxOutcome) : (s.endTransmission idle r).drvBound = s.drvBound := rfl
@[simp] theorem State.endTransmission_configured (s : State) (idle : Level) (r : TxOutcome) : (s.endTransmission idle r).configured = s.configured := rfl
@[simp] theorem State.endTransmission_commandIndex (s : State) (idle : Level) (r : TxOutcome) : (s.endTransmission idle r).commandIndex = s.commandIndex := rfl
@[simp] theorem State.hang_pinAssigned (s : State) : (s.hang).pinAssigned = s.pinAssigned := rfl
@[simp] theorem State.hang_drvBound (s : State) : (s.hang).drvBound = s.drvBound := rfl
@[simp] theorem State.hang_configured (s : State) : (s.hang).configured = s.configured := rfl
@[simp] theorem State.hang_commandIndex (s : State) : (s.hang).commandIndex = s.commandIndex := rfl
@[simp] theorem State.issue_pinAssigned (s : State) (rest : List Word) : (s.issue rest).pinAssigned = s.pinAssigned := rfl
@[simp] theorem State.issue_drvBound (s : State) (rest : List Word) : (s.issue rest).drvBound = s.drvBound := rfl
@[simp] theorem State.issue_configured (s : State) (rest : List Word) : (s.issue rest).configured = s.configured := rfl
@[simp] theorem State.issue_commandIndex (s : State) (rest : List Word) : (s.issue rest).commandIndex = s.commandIndex := rfl
@[simp] theorem State.takeResult_pinAssigned (s : State) : (s.takeResult).pinAssigned = s.pinAssigned := rfl
@[simp] theorem State.takeResult_drvBound (s : State) : (s.takeResult).drvBound = s.drvBound := rfl
@[simp] theorem State.takeResult_configured (s : State) : (s.takeResult).configured = s.configured := rfl
@[simp] theorem State.takeResult_commandIndex (s : State) : (s.takeResult).commandIndex = s.commandIndex := rfl
@[simp] theorem State.waitFor_pinAssigned (s : State) (j : Nat) (x : Sender) : (s.waitFor j x).pinAssigned = s.pinAssigned := rfl
@[simp] theorem State.waitFor_drvBound (s : State) (j : Nat) (x : Sender) : (s.waitFor j x).drvBound = s.drvBound := rfl
@[simp] theorem State.waitFor_configured (s : State) (j : Nat) (x : Sender) : (s.waitFor j x).configured = s.configured := rfl
@[simp] theorem State.waitFor_commandIndex (s : State) (j : Nat) (x : Sender) : (s.waitFor j x).commandIndex = s.commandIndex := rfl
@[simp] theorem State.load_pinAssigned (s : State) (ws : List Word) : (s.load ws).pinAssigned = s.pinAssigned := rfl
@[simp] theorem State.load_drvBound (s : State) (ws : List Word) : (s.load ws).drvBound = s.drvBound := rfl
@[simp] theorem State.load_configured (s : State) (ws : List Word) : (s.load ws).configured = s.configured := rfl
@[simp] theorem State.load_commandIndex (s : State) (ws : List Word) : (s.load ws).commandIndex = s.commandIndex := rfl

@[simp] theorem State.setConf_configured (s : State) (c : ChConf) : (s.setConf c).configured = true := rfl
@[simp] theorem State.setPin_pinAssigned (s : State) (p : Byte) : (s.setPin p).pinAssigned = true := rfl
@[simp] theorem State.bindDriver_drvBound (s : State) (t0 t1 : Word) : (s.bindDriver t0 t1).drvBound = true := rfl

end Sys2Proof.Machine
end

