-- ==== Sys2Proof/Laws/ChMem.lean ====
section
/-! SUPPORT. The channel buffer: a write keeps the canonical form and the bound, a read after a write, writes elsewhere, and
the copy of a whole sequence. -/

namespace Sys2Proof.Machine

theorem ChMem.read_of_risesFrom {m : List (Nat × Word)} {k i : Nat} (h : ChMem.risesFrom k m = true) (hi : i < k) :
    ChMem.read m i = none := by
  induction m generalizing k with
  | nil => rfl
  | cons c m ih =>
    simp only [ChMem.risesFrom, Bool.and_eq_true, decide_eq_true_eq] at h
    have hne : c.1 ≠ i := by omega
    simp only [ChMem.read, hne, if_false]
    exact ih h.2 (by omega)

theorem ChMem.risesFrom_mono {m : List (Nat × Word)} {k k' : Nat} (h : ChMem.risesFrom k m = true) (hk : k' ≤ k) :
    ChMem.risesFrom k' m = true := by
  cases m with
  | nil => rfl
  | cons c m =>
    simp only [ChMem.risesFrom, Bool.and_eq_true, decide_eq_true_eq] at h ⊢
    exact ⟨by omega, h.2⟩

theorem ChMem.risesFrom_write {m : List (Nat × Word)} {k i : Nat} (v : Word) (h : ChMem.risesFrom k m = true) (hi : k ≤ i) :
    ChMem.risesFrom k (ChMem.write i v m) = true := by
  induction m generalizing k with
  | nil => simp [ChMem.write, ChMem.risesFrom, hi]
  | cons c m ih =>
    simp only [ChMem.risesFrom, Bool.and_eq_true, decide_eq_true_eq] at h
    unfold ChMem.write
    split
    · simp only [ChMem.risesFrom, Bool.and_eq_true, decide_eq_true_eq]
      exact ⟨hi, by omega, h.2⟩
    · split
      · next heq =>
        simp only [ChMem.risesFrom, Bool.and_eq_true, decide_eq_true_eq]
        exact ⟨hi, heq ▸ h.2⟩
      · simp only [ChMem.risesFrom, Bool.and_eq_true, decide_eq_true_eq]
        exact ⟨h.1, ih h.2 (by omega)⟩

/-- The empty buffer after reset is in the canonical form. -/
theorem ChMem.wf_reset : ChMem.wf State.reset.chMem = true := rfl

/-- A write keeps the canonical form. -/
theorem ChMem.wf_write {m : List (Nat × Word)} (i : Nat) (v : Word) (h : ChMem.wf m = true) :
    ChMem.wf (ChMem.write i v m) = true :=
  ChMem.risesFrom_write v h (Nat.zero_le i)

/-- The copy of a sequence keeps the canonical form. -/
theorem ChMem.wf_writeFrom {m : List (Nat × Word)} (i : Nat) (vs : List Word) (h : ChMem.wf m = true) :
    ChMem.wf (ChMem.writeFrom i vs m) = true := by
  induction vs generalizing i m with
  | nil => exact h
  | cons v vs ih => exact ih (i + 1) (ChMem.wf_write i v h)

theorem ChMem.within_write {m : List (Nat × Word)} {cap i : Nat} (v : Word) (h : ChMem.within cap m = true) (hi : i < cap) :
    ChMem.within cap (ChMem.write i v m) = true := by
  induction m with
  | nil => simp [ChMem.write, ChMem.within, hi]
  | cons c m ih =>
    simp only [ChMem.within, List.all_cons, Bool.and_eq_true, decide_eq_true_eq] at h ih
    unfold ChMem.write
    split
    · simp only [ChMem.within, List.all_cons, Bool.and_eq_true, decide_eq_true_eq]
      exact ⟨hi, h⟩
    · split
      · simp only [ChMem.within, List.all_cons, Bool.and_eq_true, decide_eq_true_eq]
        exact ⟨hi, h.2⟩
      · simp only [ChMem.within, List.all_cons, Bool.and_eq_true, decide_eq_true_eq]
        exact ⟨h.1, ih h.2⟩

/-- The copy of a sequence that fits stays below the capacity. -/
theorem ChMem.within_writeFrom {m : List (Nat × Word)} {cap i : Nat} (vs : List Word) (h : ChMem.within cap m = true)
    (hi : i + vs.length ≤ cap) : ChMem.within cap (ChMem.writeFrom i vs m) = true := by
  induction vs generalizing i m with
  | nil => exact h
  | cons v vs ih =>
    simp only [List.length_cons] at hi
    exact ih (ChMem.within_write v h (by omega)) (by omega)

/-- A read after a write to the same index gives the word written. -/
theorem ChMem.read_write_same (m : List (Nat × Word)) (i : Nat) (v : Word) : ChMem.read (ChMem.write i v m) i = some v := by
  induction m with
  | nil => simp [ChMem.write, ChMem.read]
  | cons c m ih =>
    unfold ChMem.write
    split
    · simp [ChMem.read]
    · split
      · simp [ChMem.read]
      · next hne => simp only [ChMem.read, hne, if_false]; exact ih

/-- A write leaves every other index as it was. -/
theorem ChMem.read_write_ne (m : List (Nat × Word)) {i a : Nat} (v : Word) (h : a ≠ i) :
    ChMem.read (ChMem.write i v m) a = ChMem.read m a := by
  induction m with
  | nil => simp [ChMem.write, ChMem.read, Ne.symm h]
  | cons c m ih =>
    unfold ChMem.write
    split
    · simp [ChMem.read, Ne.symm h]
    · split
      · next heq => simp [ChMem.read, Ne.symm h, heq]
      · simp only [ChMem.read, ih]

/-- The copy of a sequence leaves the indexes outside it as they were. -/
theorem ChMem.read_writeFrom_outside (vs : List Word) (m : List (Nat × Word)) {i a : Nat} (h : a < i ∨ i + vs.length ≤ a) :
    ChMem.read (ChMem.writeFrom i vs m) a = ChMem.read m a := by
  induction vs generalizing i m with
  | nil => rfl
  | cons v vs ih =>
    simp only [List.length_cons] at h
    rw [ChMem.writeFrom, ih (ChMem.write i v m) (by omega), ChMem.read_write_ne m v (by omega)]

/-- After the copy of a sequence its entry `k` stands at index `i + k`. -/
theorem ChMem.read_writeFrom_inside (vs : List Word) (m : List (Nat × Word)) {i k : Nat} (hk : k < vs.length) :
    ChMem.read (ChMem.writeFrom i vs m) (i + k) = vs[k]? := by
  induction vs generalizing i k m with
  | nil => simp at hk
  | cons v vs ih =>
    rw [ChMem.writeFrom]
    cases k with
    | zero =>
      rw [ChMem.read_writeFrom_outside vs _ (by omega)]
      simpa using ChMem.read_write_same m i v
    | succ k =>
      simp only [List.length_cons, Nat.add_lt_add_iff_right] at hk
      have := ih (ChMem.write i v m) (i := i + 1) hk
      rw [show i + (k + 1) = i + 1 + k by omega, this]
      simp

end Sys2Proof.Machine
end

