-- ==== Sys2Proof/Laws/Operands.lean ====
section
/-! SUPPORT. The operand forms: the first terminator of a sequence, and the two kinds of symbol with a zero length. -/

namespace Sys2Proof.Machine

theorem firstTerminator_le (seq : List Word) : firstTerminator seq ≤ seq.length := by
  induction seq with
  | nil => exact Nat.le_refl 0
  | cons v vs ih =>
    unfold firstTerminator
    split
    · exact Nat.zero_le _
    · simpa using ih

/-- No symbol before the first terminator is one. -/
theorem not_isTerminator_of_lt {seq : List Word} {i : Nat} {v : Word} (hi : i < firstTerminator seq) (hv : seq[i]? = some v) :
    isTerminator v = false := by
  induction seq generalizing i with
  | nil => simp at hv
  | cons w ws ih =>
    unfold firstTerminator at hi
    split at hi
    · simp at hi
    · next hw =>
      cases i with
      | zero => simp only [List.getElem?_cons_zero, Option.some.injEq] at hv; simpa [← hv] using hw
      | succ i => exact ih (Nat.lt_of_succ_lt_succ hi) (by simpa using hv)

/-- Where the first terminator is not past the end, it is one. -/
theorem isTerminator_at {seq : List Word} (h : firstTerminator seq < seq.length) :
    ∃ v, seq[firstTerminator seq]? = some v ∧ isTerminator v = true := by
  induction seq with
  | nil => simp at h
  | cons w ws ih =>
    unfold firstTerminator at h ⊢
    split
    · next hw => exact ⟨w, by simp, hw⟩
    · next hw =>
      simp only [hw] at h
      simpa using ih (by simpa using h)

/-- A symbol that is neither a terminator nor half-zero has two lengths that are not zero. -/
theorem lengths_ne_zero {v : Word} (ht : isTerminator v = false) (hh : isHalfZero v = false) :
    (symOf v).length1 ≠ 0 ∧ (symOf v).length2 ≠ 0 := by
  simp only [isTerminator, isHalfZero] at ht hh
  by_cases h1 : (symOf v).length1 = 0 <;> by_cases h2 : (symOf v).length2 = 0 <;> simp_all

theorem encodeSequence_length (w : ColorWord) (t0 t1 : Word) : (encodeSequence w t0 t1).length = 24 := by
  simp [encodeSequence, Config.seqLen]

/-- Entry `i` of an encoded colour is the symbol of bit `23 - i`. -/
theorem encodeSequence_getElem? (w : ColorWord) (t0 t1 : Word) {i : Nat} (h : i < 24) :
    (encodeSequence w t0 t1)[i]? = some (if w.getLsbD (23 - i) then t1 else t0) := by
  simp [encodeSequence, Config.seqLen, h]

/-- Every entry of an encoded colour is one of the table's two symbols. -/
theorem mem_encodeSequence {w : ColorWord} {t0 t1 v : Word} (h : v ∈ encodeSequence w t0 t1) : v = t0 ∨ v = t1 := by
  simp only [encodeSequence, List.mem_map] at h
  obtain ⟨i, -, rfl⟩ := h
  split
  · exact .inr rfl
  · exact .inl rfl

/-- CHAN_CAP lies in its range (R6). -/
theorem chanCap_range : 24 ≤ Config.chanCap ∧ Config.chanCap ≤ 255 := by
  have := Config.chanCapExtra.isLt
  unfold Config.chanCap
  omega

/-- TICK_HZ is positive (R146). -/
theorem tickHz_pos (div : Byte) : 0 < Config.tickHz div := Nat.succ_pos _

end Sys2Proof.Machine
end

