-- ==== Sys2Proof/Laws/PerInstr.lean ====
section
/-! SUPPORT. Laws said once per constructor of Instr. The family CommandLength: the encoder writes as many words as word 0 of
the command says it has (30_encoding.md R67). -/

namespace Sys2Proof

theorem Opcode.ofCode_code (op : Opcode) : Opcode.ofCode op.code = some op := by cases op <;> rfl

/-- The opcode field of an assembled word 0. -/
theorem opcodeField_word0 (op : Opcode) (imm : BitVec 24) : opcodeField (word0 op imm) = op.code := by
  rw [opcodeField, field, word0, BitVec.extractLsb'_append_eq_of_le (by omega), BitVec.extractLsb'_eq_self]

/-- A field of word 0 that lies in the immediate. -/
theorem field_word0 (op : Opcode) (imm : BitVec 24) {lo len : Nat} (h : lo + len ≤ 24) :
    field lo len (word0 op imm) = imm.extractLsb' lo len := by
  rw [field, word0, BitVec.extractLsb'_append_eq_of_add_le h]

theorem commandWords_word0 (op : Opcode) (imm : BitVec 24) :
    commandWords (word0 op imm) = 1 + op.operandWords (word0 op imm) := by
  simp [commandWords, opcodeField_word0, Opcode.ofCode_code]

namespace Laws.CommandLength

/-- A well-formed command is encoded in as many words as its word 0 says (R67). -/
def Statement (i : Instr) : Prop :=
  ∀ validPin, i.wf validPin = true → ∃ w0 ws, encode i = w0 :: ws ∧ (encode i).length = commandWords w0

theorem configure (idle : Level) (carrier : Bool) (div : Byte) : Statement (.configure idle carrier div) :=
  fun _ _ => ⟨_, _, rfl, by rw [commandWords_word0]; rfl⟩

theorem assignPin (pin : Byte) : Statement (.assignPin pin) :=
  fun _ _ => ⟨_, _, rfl, by rw [commandWords_word0]; rfl⟩

theorem deriveTicks (ns hz : Word) : Statement (.deriveTicks ns hz) :=
  fun _ _ => ⟨_, _, rfl, by rw [commandWords_word0]; rfl⟩

theorem buildTable (t0h t0l t1h t1l hz : Word) : Statement (.buildTable t0h t0l t1h t1l hz) :=
  fun _ _ => ⟨_, _, rfl, by rw [commandWords_word0]; rfl⟩

theorem encodeColor (w : ColorWord) (t0 t1 : Word) : Statement (.encodeColor w t0 t1) :=
  fun _ _ => ⟨_, _, rfl, by rw [commandWords_word0]; rfl⟩

theorem pack (c : ColorValue) : Statement (.pack c) :=
  fun _ _ => ⟨_, _, rfl, by rw [commandWords_word0]; rfl⟩

theorem sendPulseSequence (mode : Mode) (seq : List Word) : Statement (.sendPulseSequence mode seq) := by
  intro _ h
  cases mode
  simp only [Instr.wf, Bool.and_eq_true, decide_eq_true_eq] at h
  refine ⟨_, _, rfl, ?_⟩
  have hf : (0#8 ++ BitVec.ofNat 8 seq.length ++ 0#7 ++ 0#1 : BitVec 24).extractLsb' 8 8 = BitVec.ofNat 8 seq.length := by
    rw [BitVec.extractLsb'_append_eq_of_le (by omega), BitVec.extractLsb'_append_eq_of_le (by omega),
      BitVec.extractLsb'_append_eq_of_add_le (by omega), BitVec.extractLsb'_eq_self]
  rw [commandWords_word0, Opcode.operandWords, field_word0 _ _ (by omega), hf]
  simp only [encode, List.length_cons, BitVec.toNat_ofNat]
  omega

theorem driverNew (t0 t1 : Word) : Statement (.driverNew t0 t1) :=
  fun _ _ => ⟨_, _, rfl, by rw [commandWords_word0]; rfl⟩

theorem sendOne (c : ColorValue) : Statement (.sendOne c) :=
  fun _ _ => ⟨_, _, rfl, by rw [commandWords_word0]; rfl⟩

theorem sendMany (colors : List ColorValue) : Statement (.sendMany colors) := by
  intro _ h
  simp only [Instr.wf, decide_eq_true_eq] at h
  refine ⟨_, _, rfl, ?_⟩
  have hf : (0#8 ++ BitVec.ofNat 16 colors.length : BitVec 24).extractLsb' 0 16 = BitVec.ofNat 16 colors.length := by
    rw [BitVec.extractLsb'_append_eq_of_add_le (by omega), BitVec.extractLsb'_eq_self]
  rw [commandWords_word0, Opcode.operandWords, field_word0 _ _ (by omega), hf]
  simp only [encode, List.length_cons, List.length_map, BitVec.toNat_ofNat]
  omega

end Laws.CommandLength

end Sys2Proof
end

