-- ==== Sys2Proof/Laws/Decode.lean ====
section
/-! SUPPORT. The decoder on an assembled word 0, the fields of the assembled immediates, and what a decoded command's words
were. -/

namespace Sys2Proof

/-- The decoder accepts where each of its checks passes (R67, R157). -/
theorem decode_ok {vp : Byte → Bool} {op : Opcode} {w0 : Word} {ws : List Word} (ho : Opcode.ofCode (opcodeField w0) = some op)
    (hr : fieldsZero op.reservedFields w0 = true) (hv : op.valueRefusal vp w0 = none) (hn : op.operandWords w0 ≤ ws.length)
    (ha : (ws.take (op.operandWords w0)).all (fieldsZero op.operandReserved) = true) :
    decode vp (w0 :: ws) = .ok (op.command w0 (ws.take (op.operandWords w0))) (ws.drop (op.operandWords w0)) := by
  unfold decode
  simp only [ho, hr, hv, if_true, Nat.not_lt.mpr hn, if_false, ha]

/-- What an accepted word sequence was: each check of the decoder passed. -/
theorem decode_ok_inv {vp : Byte → Bool} {ws rest : List Word} {i : Instr} (h : decode vp ws = .ok i rest) :
    ∃ w0 us op, ws = w0 :: us ∧ Opcode.ofCode (opcodeField w0) = some op ∧ fieldsZero op.reservedFields w0 = true ∧
      op.valueRefusal vp w0 = none ∧ op.operandWords w0 ≤ us.length ∧
      (us.take (op.operandWords w0)).all (fieldsZero op.operandReserved) = true ∧
      i = op.command w0 (us.take (op.operandWords w0)) ∧ rest = us.drop (op.operandWords w0) := by
  cases ws with
  | nil => simp [decode] at h
  | cons w0 us =>
    unfold decode at h
    cases ho : Opcode.ofCode (opcodeField w0) with
    | none => simp [ho] at h
    | some op =>
      by_cases hr : fieldsZero op.reservedFields w0 = true
      · cases hv : op.valueRefusal vp w0 with
        | some r => simp [ho, hr, hv] at h
        | none =>
          by_cases hn : us.length < op.operandWords w0
          · simp [ho, hr, hv, hn] at h
          · cases ha : (us.take (op.operandWords w0)).all (fieldsZero op.operandReserved)
            · simp only [ho, hr, hv, hn, ha, if_true, if_false, Bool.false_eq_true] at h
              simp at h
            · simp only [ho, hr, hv, hn, ha, if_true, if_false] at h
              injection h with h1 h2
              exact ⟨w0, us, op, rfl, ho, hr, hv, Nat.le_of_not_lt hn, ha, h1.symm, h2.symm⟩
      · simp [ho, hr] at h

theorem fieldsZero_nil (w : Word) : fieldsZero [] w = true := rfl

theorem fieldsZero_cons (lo len : Nat) (fs : List (Nat × Nat)) (w : Word) :
    fieldsZero ((lo, len) :: fs) w = (field lo len w == 0 && fieldsZero fs w) := rfl

/-- A bit of word 0 that lies in the immediate. -/
theorem getLsbD_word0 (op : Opcode) (imm : BitVec 24) {k : Nat} (h : k < 24) : (word0 op imm).getLsbD k = imm.getLsbD k := by
  simp only [word0, BitVec.getLsbD_append, h]
  simp

/-- The low part of an append. -/
theorem extract_low {m n : Nat} (x : BitVec m) (y : BitVec n) {lo len : Nat} (h : lo + len ≤ n) :
    (x ++ y).extractLsb' lo len = y.extractLsb' lo len :=
  BitVec.extractLsb'_append_eq_of_add_le h

/-- The high part of an append. -/
theorem extract_high {m n : Nat} (x : BitVec m) (y : BitVec n) {lo len : Nat} (h : n ≤ lo) :
    (x ++ y).extractLsb' lo len = x.extractLsb' (lo - n) len :=
  BitVec.extractLsb'_append_eq_of_le h

/-- The three bytes of a colour (R65). -/
theorem colorBits_fields (c : ColorValue) : (colorBits c).extractLsb' 16 8 = c.r ∧ (colorBits c).extractLsb' 8 8 = c.g ∧
    (colorBits c).extractLsb' 0 8 = c.b := by
  refine ⟨?_, ?_, ?_⟩ <;> rw [colorBits]
  · rw [extract_high _ _ (by decide), extract_high _ _ (by decide)]; exact BitVec.extractLsb'_eq_self
  · rw [extract_high _ _ (by decide), extract_low _ _ (by decide)]; exact BitVec.extractLsb'_eq_self
  · rw [extract_low _ _ (by decide)]; exact BitVec.extractLsb'_eq_self

/-- The colour of a word 0 assembled from it (R74, R77). -/
theorem colorOfWord_word0 (op : Opcode) (c : ColorValue) : colorOfWord (word0 op (colorBits c)) = c := by
  obtain ⟨hr, hg, hb⟩ := colorBits_fields c
  simp only [colorOfWord, field_word0 _ _ (show 16 + 8 ≤ 24 by decide), field_word0 _ _ (show 8 + 8 ≤ 24 by decide),
    field_word0 _ _ (show 0 + 8 ≤ 24 by decide), hr, hg, hb]

/-- The colour of a colour word assembled from it (R78). -/
theorem colorOfWord_operand (c : ColorValue) : colorOfWord (0#8 ++ colorBits c) = c := by
  obtain ⟨hr, hg, hb⟩ := colorBits_fields c
  simp only [colorOfWord, field]
  rw [extract_low _ _ (by decide), extract_low _ _ (by decide), extract_low _ _ (by decide), hr, hg, hb]

/-- A colour word's reserved field is zero (R78). -/
theorem reserved_operand (c : ColorValue) : field 24 8 (0#8 ++ colorBits c) = 0 := by
  rw [field, extract_high _ _ (by decide)]
  exact BitVec.extractLsb'_eq_self

end Sys2Proof
end

