-- ==== Sys2Proof/Laws/Ops.lean ====
section
/-! SUPPORT. What the shared operations can do, said once: the acceptance of a transmission, a send command's step, the
transmitter's step. -/

namespace Sys2Proof.Machine

/-- Every way the acceptance step can go, its guards included (R130, R158). -/
theorem accept_cases (x : Sender) (j : Nat) (q : List Word) (s : State) :
    (s.chConf = none ∧ accept x j q s = .fault .notConfigured) ∨
    ∃ conf, s.chConf = some conf ∧
      ((s.pinAssigned = false ∧ accept x j q s = .fault .noPin) ∨
       (s.pinAssigned = true ∧ conf.carrierEn = true ∧ accept x j q s = .fault .carrierEnabled) ∨
       (s.pinAssigned = true ∧ conf.carrierEn = false ∧ s.txState = .busy ∧ accept x j q s = .err .busy) ∨
       (s.pinAssigned = true ∧ conf.carrierEn = false ∧ s.txState ≠ .busy ∧ Config.chanCap < q.length ∧
          accept x j q s = .err .overrun) ∨
       (s.pinAssigned = true ∧ conf.carrierEn = false ∧ s.txState ≠ .busy ∧ q.length ≤ Config.chanCap ∧
          (∃ v ∈ q.take (firstTerminator q), isHalfZero v = true) ∧ accept x j q s = .fault .halfZeroSymbol) ∨
       (s.pinAssigned = true ∧ conf.carrierEn = false ∧ s.txState ≠ .busy ∧ q.length ≤ Config.chanCap ∧
          (∀ v ∈ q.take (firstTerminator q), isHalfZero v = false) ∧
          accept x j q s = .accepted (s.startTransmission conf.idleLevel x j q (firstTerminator q)))) := by
  cases hc : s.chConf with
  | none => exact .inl ⟨rfl, by simp [accept, hc]⟩
  | some conf =>
    refine .inr ⟨conf, rfl, ?_⟩
    cases hp : s.pinAssigned
    · exact .inl ⟨rfl, by simp [accept, hc, hp]⟩
    cases he : conf.carrierEn
    · by_cases hb : s.txState = .busy
      · exact .inr (.inr (.inl ⟨rfl, rfl, hb, by simp [accept, hc, hp, he, hb]⟩))
      by_cases hn : Config.chanCap < q.length
      · exact .inr (.inr (.inr (.inl ⟨rfl, rfl, hb, hn, by simp [accept, hc, hp, he, hb, hn]⟩)))
      cases hz : (q.take (firstTerminator q)).any isHalfZero
      · refine .inr (.inr (.inr (.inr (.inr ⟨rfl, rfl, hb, Nat.le_of_not_lt hn, ?_, ?_⟩))))
        · simpa using hz
        · simp only [accept, hc, hp, he, hb, hn, hz]; rfl
      · refine .inr (.inr (.inr (.inr (.inl ⟨rfl, rfl, hb, Nat.le_of_not_lt hn, ?_, ?_⟩))))
        · simpa using hz
        · simp only [accept, hc, hp, he, hb, hn, hz]; rfl
    · exact .inr (.inl ⟨rfl, rfl, by simp [accept, hc, hp, he]⟩)

/-- A send command's step always answers a next state: the fault's mark, the error as the result, or the accepted
transmission. -/
theorem conclude_accept_cases {x : Sender} {j : Nat} {q : List Word} {op : Opcode} {s : State} :
    (∃ f, conclude op (accept x j q s) s = .next (s.raiseFault f none op)) ∨
    (∃ e, conclude op (accept x j q s) s = .next (s.finish (.txErr e))) ∨
    (∃ conf, s.chConf = some conf ∧ s.pinAssigned = true ∧ conf.carrierEn = false ∧ s.txState ≠ .busy ∧
      q.length ≤ Config.chanCap ∧ (∀ v ∈ q.take (firstTerminator q), isHalfZero v = false) ∧
      conclude op (accept x j q s) s =
        .next (s.startTransmission conf.idleLevel x j q (firstTerminator q))) := by
  obtain ⟨-, h⟩ | ⟨conf, hc, ⟨-, h⟩ | ⟨-, -, h⟩ | ⟨-, -, -, h⟩ | ⟨-, -, -, -, h⟩ | ⟨-, -, -, -, -, h⟩ |
    ⟨hp, he, hb, hn, hz, h⟩⟩ := accept_cases x j q s
  · exact .inl ⟨_, by rw [h]; rfl⟩
  · exact .inl ⟨_, by rw [h]; rfl⟩
  · exact .inl ⟨_, by rw [h]; rfl⟩
  · exact .inr (.inl ⟨_, by rw [h]; rfl⟩)
  · exact .inr (.inl ⟨_, by rw [h]; rfl⟩)
  · exact .inl ⟨_, by rw [h]; rfl⟩
  · exact .inr (.inr ⟨conf, hc, hp, he, hb, hn, hz, by rw [h]; rfl⟩)

/-- An accepted transmission: where the channel is configured, has a pin, no carrier and is not Busy, and the sequence fits
and has no half-zero symbol before its first terminator. -/
theorem accept_accepted {x : Sender} {j : Nat} {q : List Word} {s : State} {conf : ChConf} (hc : s.chConf = some conf)
    (hp : s.pinAssigned = true) (he : conf.carrierEn = false) (hb : s.txState ≠ .busy) (hn : q.length ≤ Config.chanCap)
    (hz : ∀ v ∈ q.take (firstTerminator q), isHalfZero v = false) :
    accept x j q s = .accepted (s.startTransmission conf.idleLevel x j q (firstTerminator q)) := by
  have hz' : (q.take (firstTerminator q)).any isHalfZero = false := by simpa using hz
  simp only [accept, hc, hp, he, hb, Nat.not_lt.mpr hn, hz']
  rfl

/-- A drawn plan keeps the bound of R136. -/
theorem planOf_bounded {m : Nat} (p : PlanFor m) : (planOf p).stop m ≤ 2 * m := by
  cases p with
  | complete => exact Nat.le_refl _
  | fail e k => exact Nat.lt_succ_iff.mp k.isLt
  | hang k => exact Nat.lt_succ_iff.mp k.isLt

/-- Every next state of the transmitter: one half-symbol emitted, the transmission ended with a result, or hung. -/
theorem transmitterStep_next {s t : State} (h : transmitterStep s = .next t) :
    ∃ plan, s.txPlan = some plan ∧
      ((s.txPos < plan.stop s.txLen ∧ s.txPos / 2 < s.txLen ∧ ∃ v conf,
          ChMem.read s.chMem (s.txPos / 2) = some v ∧ s.chConf = some conf ∧
          t = s.emitHalf (halfOf s.txPos (symOf v)).1 (halfOf s.txPos (symOf v)).2 conf.clockDiv) ∨
       (plan.stop s.txLen ≤ s.txPos ∧ ((∃ k, plan = .hang k) ∧ t = s.hang ∨
          ∃ conf r, s.chConf = some conf ∧ t = s.endTransmission conf.idleLevel r))) := by
  cases hp : s.txPlan with
  | none => simp [transmitterStep, hp] at h
  | some plan =>
    refine ⟨plan, rfl, ?_⟩
    simp only [transmitterStep, hp] at h
    split at h
    · next hlt =>
      refine .inl ⟨hlt, ?_⟩
      simp only [emitStep, State.memRead] at h
      by_cases hl : s.txPos / 2 < s.txLen
      · rw [if_pos hl] at h
        cases hv : ChMem.read s.chMem (s.txPos / 2) with
        | none => simp [hv] at h
        | some v =>
          cases hc : s.chConf with
          | none => simp [hv, hc] at h
          | some conf => exact ⟨hl, v, conf, rfl, rfl, by simpa [hv, hc] using h.symm⟩
      · simp [hl] at h
    · next hge =>
      refine .inr ⟨Nat.le_of_not_lt hge, ?_⟩
      cases plan with
      | hang k => exact .inl ⟨⟨k, rfl⟩, by simpa using h.symm⟩
      | complete =>
        cases hc : s.chConf with
        | none => simp [endStep, hc] at h
        | some conf => exact .inr ⟨conf, .ok, rfl, by simpa [endStep, hc] using h.symm⟩
      | fail e k =>
        cases hc : s.chConf with
        | none => simp [endStep, hc] at h
        | some conf => exact .inr ⟨conf, .err e, rfl, by simpa [endStep, hc] using h.symm⟩

end Sys2Proof.Machine
end

