-- ==== Sys2Proof/Laws/Step.lean ====
section
/-! SUPPORT. What a command and a step can do, said once, guards included: every later invariant is a case analysis of
these. -/

namespace Sys2Proof.Machine

/-- The writes of a command that is handed a sequence: the mark, the result, or an accepted transmission. -/
inductive Sent (x : Sender) (j : Nat) (s t : State) : Prop
  | fault (f : FaultName) (d : Option BuildError) (op : Opcode) (h : t = s.raiseFault f d op)
  | result (r : Result) (h : t = s.finish r)
  | accepted (conf : ChConf) (q : List Word) (hc : s.Accepts conf) (hn : q.length ≤ Config.chanCap)
      (hz : ∀ v ∈ q.take (firstTerminator q), isHalfZero v = false)
      (h : t = s.startTransmission conf.idleLevel x j q (firstTerminator q))

theorem sent_of_conclude {x : Sender} {j : Nat} {q : List Word} {op : Opcode} {s t : State}
    (h : conclude op (accept x j q s) s = .next t) : Sent x j s t := by
  obtain ⟨f, hf⟩ | ⟨e, he⟩ | ⟨conf, hc, hp, hce, hb, hn, hz, ha⟩ :=
    conclude_accept_cases (x := x) (j := j) (q := q) (op := op) (s := s)
  · exact .fault f none op (by rw [hf] at h; injection h with h; exact h.symm)
  · exact .result _ (by rw [he] at h; injection h with h; exact h.symm)
  · exact .accepted conf q ⟨hc, hp, hce, hb⟩ hn hz (by rw [ha] at h; injection h with h; exact h.symm)

theorem sent_of_sendColor {op : Opcode} {x : Sender} {j : Nat} {c : ColorValue} {s t : State}
    (h : sendColor op x j c s = .next t) : Sent x j s t := by
  unfold sendColor at h
  split at h
  · injection h with h; exact .fault _ _ _ h.symm
  · exact sent_of_conclude h

/-- A colour is only handed over by a bound driver. -/
theorem drvBound_of_sendColor {op : Opcode} {x : Sender} {j : Nat} {c : ColorValue} {s t : State}
    (h : sendColor op x j c s = .next t) : s.drvBound = true ∨ t = s.raiseFault .notBound none op := by
  unfold sendColor at h
  split at h
  · injection h with h; exact .inr h.symm
  · next ht => exact .inl (by simp [State.drvBound, ht])

/-- Every next state of a command. -/
inductive Executed (i : Instr) (s t : State) : Prop
  | fault (f : FaultName) (d : Option BuildError) (op : Opcode) (h : t = s.raiseFault f d op)
  | result (r : Result) (h : t = s.finish r)
  | configured (idle : Level) (carrier : Bool) (div : Byte) (hi : i = .configure idle carrier div)
      (hb : s.drvTable = none) (h : t = (s.setConf ⟨idle, carrier, div⟩).finish (.ok .unit))
  | pinned (pin : Byte) (hi : i = .assignPin pin) (hb : s.drvTable = none) (h : t = (s.setPin pin).finish (.ok .unit))
  | bound (t0 t1 : Word) (conf : ChConf) (hb : s.drvTable = none) (hc : s.chConf = some conf) (hp : s.pinAssigned = true)
      (hw : wfError Config.periodTolNs (Config.tickHz conf.clockDiv) (symOf t0) (symOf t1) = none)
      (h : t = (s.bindDriver t0 t1).finish (.ok .unit))
  | sent (x : Sender) (hx : s.SenderFits 0 x) (h : Sent x 0 s t)

theorem drvTable_none_of {s : State} (h : ¬ s.drvBound = true) : s.drvTable = none := by
  simpa [State.drvBound] using h

theorem exec_cases {i : Instr} {s t : State} (h : exec i s = .next t) : Executed i s t := by
  cases i with
  | configure idle carrier div =>
    simp only [exec, execConfigure] at h
    split at h
    · injection h with h; exact .fault _ _ _ h.symm
    · next hb => injection h with h; exact .configured idle carrier div rfl (drvTable_none_of hb) h.symm
  | assignPin pin =>
    simp only [exec, execAssignPin] at h
    split at h
    · injection h with h; exact .fault _ _ _ h.symm
    · next hb => injection h with h; exact .pinned pin rfl (drvTable_none_of hb) h.symm
  | deriveTicks ns hz => injection h with h; exact .result _ h.symm
  | buildTable a b c d e => injection h with h; exact .result _ h.symm
  | encodeColor w t0 t1 => injection h with h; exact .result _ h.symm
  | pack c => injection h with h; exact .result _ h.symm
  | sendPulseSequence mode seq =>
    cases mode
    exact .sent .pulseSequence rfl (sent_of_conclude h)
  | driverNew t0 t1 =>
    simp only [exec, execDriverNew] at h
    split at h
    · injection h with h; exact .fault _ _ _ h.symm
    · next hb =>
      split at h
      · injection h with h; exact .fault _ _ _ h.symm
      · next conf hc =>
        split at h
        · injection h with h; exact .fault _ _ _ h.symm
        · next hp =>
          split at h
          · injection h with h; exact .fault _ _ _ h.symm
          · next hw =>
            injection h with h
            exact .bound t0 t1 conf (drvTable_none_of hb) hc (by simpa using hp) hw h.symm
  | sendOne c =>
    obtain hb | hf := drvBound_of_sendColor h
    · exact .sent .sendOne ⟨rfl, hb⟩ (sent_of_sendColor h)
    · exact .fault _ _ _ hf
  | sendMany colors =>
    simp only [exec, execSendMany] at h
    split at h
    · injection h with h; exact .fault _ _ _ h.symm
    · next hb =>
      split at h
      · injection h with h; exact .result _ h.symm
      · exact .sent (.sendMany _) ⟨by simp, by simpa using hb⟩ (sent_of_sendColor h)

/-- Every next state of a step. -/
inductive Stepped (s t : State) : Prop
  | refused (hs : s.Issuing) (r : RefusalReason) (hp : s.pending ≠ []) (hd : decode Config.validPin s.pending = .refused r)
      (h : t = s.refuse r)
  | issued (hs : s.Issuing) (i : Instr) (rest : List Word) (hd : decode Config.validPin s.pending = .ok i rest)
      (h : Executed i (s.issue rest) t)
  | goesOn (hf : s.fault = none) (hr : s.refused = none) (j : Nat) (colors : List ColorValue)
      (hc : s.caller = .waiting j (.sendMany colors)) (hj : j + 1 < colors.length) (hx : s.txResult = some .ok)
      (h : t = s.takeResult.waitFor (j + 1) (.sendMany colors))
  | delivered (hf : s.fault = none) (hr : s.refused = none) (j : Nat) (x : Sender) (r : TxOutcome)
      (hc : s.caller = .waiting j x) (hx : s.txResult = some r) (h : t = s.takeResult.finish (resultOf r))
  | nextColor (hf : s.fault = none) (hr : s.refused = none) (j : Nat) (colors : List ColorValue)
      (hc : s.caller = .waiting j (.sendMany colors)) (hi : s.txState = .idle) (hx : s.txResult = none)
      (hj : j < colors.length) (h : Sent (.sendMany colors) j s t)
  | transmitted (hc : callerStep s = none) (hb : s.txState = .busy) (h : transmitterStep s = .next t)
  | rested (hc : callerStep s = none) (hb : s.txState ≠ .busy) (hf : s.fault = none) (hr : s.refused = none) (h : t = s)

theorem step_cases {s t : State} (h : step s = .next t) : Stepped s t := by
  unfold step agentStep at h
  cases hcs : callerStep s with
  | none =>
    simp only [hcs] at h
    split at h
    · next hb => exact .transmitted hcs hb h
    · next hb =>
      unfold restStep at h
      split at h
      · simp at h
      · simp at h
      · next hf hr => injection h with h; exact .rested hcs hb hf hr h.symm
  | some o =>
    simp only [hcs] at h
    subst h
    unfold callerStep at hcs
    split at hcs
    · simp at hcs
    next hm =>
    obtain ⟨hf, hr⟩ : s.fault = none ∧ s.refused = none := by simpa using hm
    split at hcs
    · next hc =>
      split at hcs
      · simp at hcs
      next hp =>
      simp only [Option.some.injEq, issueStep] at hcs
      split at hcs
      · next r hd => injection hcs with hcs; exact .refused ⟨hc, hf, hr⟩ r hp hd hcs.symm
      · next i rest hd => exact .issued ⟨hc, hf, hr⟩ i rest hd (exec_cases hcs)
    · next j x hc =>
      unfold waitingStep at hcs
      split at hcs
      · next r hx =>
        simp only [Option.some.injEq, completionStep] at hcs
        split at hcs
        · split at hcs
          · next hj => injection hcs with hcs; exact .goesOn hf hr j _ hc hj hx hcs.symm
          · injection hcs with hcs; exact .delivered hf hr j _ .ok hc hx hcs.symm
        · injection hcs with hcs; exact .delivered hf hr j x r hc hx hcs.symm
      · next hx =>
        split at hcs
        · next colors hi =>
          simp only [Option.map_eq_some_iff] at hcs
          obtain ⟨c, hj, hs⟩ := hcs
          exact .nextColor hf hr j colors hc hi hx (List.getElem?_eq_some_iff.mp hj).1 (sent_of_sendColor hs)
        · simp at hcs

/-- A run that starts with a next state goes on from there. -/
theorem run_of_step (M : Host.Core) {n : Nat} {s t : M.State} (h : M.step s = .next t) : M.run (n + 1) s = M.run n t := by
  simp only [Host.Core.run, h]

/-- Runs follow one another. -/
theorem run_of_run (M : Host.Core) {m n : Nat} {s t : M.State} (h : M.run m s = .next t) : M.run (m + n) s = M.run n t := by
  induction m generalizing s with
  | zero =>
    simp only [Host.Core.run, Host.Outcome.next.injEq] at h
    rw [h, Nat.zero_add]
  | succ m ih =>
    rw [Nat.add_right_comm]
    simp only [Host.Core.run] at h ⊢
    split at h <;> simp_all

end Sys2Proof.Machine
end

