-- ==== Sys2Proof/Tests/Slice0.lean ====
section
/-! SUPPORT. The model's own tests, their expected results worked out by hand in spec/95_test_vectors.md or in the rule named,
and for each statement of Certificates/Slice0/Obligations.lean that has hypotheses a state and operands that meet them. -/

namespace Sys2Proof.Tests

open Sys2Proof.Machine

/-! ## Helper states -/

/-- `A = sym(1, 32, 0, 68)` (95_test_vectors.md). -/
def wordA : Word := 0x00448020#32

/-- `B = sym(1, 64, 0, 36)` (95_test_vectors.md). -/
def wordB : Word := 0x00248040#32

/-- A symbol with one zero length, `sym(1, 0, 0, 5)` (V6). -/
def wordH : Word := 0x00058000#32

/-- A set of valid pins with pin 18 in it: pins 0 to 39 (V5.8). -/
def pins : Byte → Bool := fun p => decide (p.toNat ≤ 39)

/-- The settings of `0x01000100`, with the carrier as given. -/
def conf (carrier : Bool) : ChConf := ⟨false, carrier, 1#8⟩

/-- `S0` of V6: configured, the carrier as given, pin 18. -/
def pinned (carrier : Bool) : State :=
  { State.reset with chConf := some (conf carrier), chPin := some 18#8, pinOut := .driven false }

/-- `S1` of V8: the driver bound to `(A, B)`. -/
def boundState : State := { pinned false with drvTable := some (wordA, wordB) }

/-- A transmission of `[B, A]` in flight under a plan, at half-symbol `p`, for a waiting sender. -/
def busyState (x : Sender) (plan : Plan) (p : Nat) : State :=
  { boundState with
    txState := .busy, chMem := [(0, wordB), (1, wordA)], txLen := 2, txPos := p, txPlan := some plan, caller := .waiting 0 x }

/-- A channel that hangs (V6.8). -/
def hungState : State :=
  { busyState .sendOne (.hang 0) 0 with txState := .hung, pinOut := .unknown }

/-- A transmission has ended with a result, the caller has not taken it. -/
def endedState (j : Nat) (x : Sender) (r : TxOutcome) : State :=
  { boundState with txResult := some r, caller := .waiting j x }

/-- Two colours, those of program P2. -/
def twoColors : List ColorValue := [⟨0xFF#8, 0#8, 0#8⟩, ⟨0#8, 0#8, 0xFF#8⟩]

/-! ## Well-formedness: one term refused for each check -/

theorem test_wf_refuses_clock_div_zero : (Instr.configure false false 0#8).wf pins = false := by decide
theorem test_wf_refuses_pin_outside : (Instr.assignPin 48#8).wf pins = false := by decide
theorem test_wf_refuses_empty_sequence : (Instr.sendPulseSequence .oneShot []).wf pins = false := by decide
theorem test_wf_refuses_256_symbols :
    (Instr.sendPulseSequence .oneShot (List.replicate 256 wordA)).wf pins = false := by
  rw [Instr.wf, List.length_replicate]; decide
theorem test_wf_refuses_65536_colors : (Instr.sendMany (List.replicate 65536 ⟨0, 0, 0⟩)).wf pins = false := by
  rw [Instr.wf, List.length_replicate]; decide
theorem test_wf_takes_bounds :
    (Instr.configure true true 255#8).wf pins = true ∧ (Instr.assignPin 39#8).wf pins = true ∧
    (Instr.sendPulseSequence .oneShot (List.replicate 255 wordA)).wf pins = true ∧ (Instr.sendMany []).wf pins = true := by
  refine ⟨by decide, by decide, by rw [Instr.wf, List.length_replicate]; decide, by decide⟩

/-! ## Decoding words written out from R69 to R78 -/

theorem test_decode_configure :
    decode pins [0b00000001_00000000_00000101_00000010#32] = .ok (.configure false true 5#8) [] := by decide
theorem test_decode_assign_pin : decode pins [0b00000010_00000000_00000000_00010010#32] = .ok (.assignPin 18#8) [] := by decide
theorem test_decode_derive_ticks :
    decode pins [0x03000000#32, 0x190#32, 0x04C4B400#32] = .ok (.deriveTicks 400#32 80000000#32) [] := by decide
theorem test_decode_build_table :
    decode pins [0x04000000#32, 0x190#32, 0x352#32, 0x320#32, 0x1C2#32, 0x04C4B400#32] =
      .ok (.buildTable 400#32 850#32 800#32 450#32 80000000#32) [] := by decide
theorem test_decode_encode :
    decode pins [0x05800000#32, 0x00448020#32, 0x00248040#32] = .ok (.encodeColor 0x800000#24 wordA wordB) [] := by decide
/-- V10.6: two one-word commands, PACK then SEND_ONE. -/
theorem test_decode_pack_then_send_one :
    decode pins [0x06123456#32, 0x09008000#32] = .ok (.pack ⟨0x12#8, 0x34#8, 0x56#8⟩) [0x09008000#32] ∧
    decode pins [0x09008000#32] = .ok (.sendOne ⟨0#8, 0x80#8, 0#8⟩) [] := by decide
theorem test_decode_send_pulse_sequence :
    decode pins [0x07000300#32, 0x00248040#32, 0#32, 0x00448020#32] = .ok (.sendPulseSequence .oneShot [wordB, 0#32, wordA]) [] := by
  decide
theorem test_decode_driver_new :
    decode pins [0x08000000#32, 0x00448020#32, 0x00248040#32] = .ok (.driverNew wordA wordB) [] := by decide
theorem test_decode_send_many :
    decode pins [0x0A000002#32, 0x00FF0000#32, 0x000000FF#32] = .ok (.sendMany twoColors) [] := by decide

/-- V10.1 to V10.3: reserved opcodes. -/
theorem test_refuse_reserved_opcode : decode pins [0x00000000#32] = .refused .reservedOpcode ∧
    decode pins [0x0B000000#32] = .refused .reservedOpcode ∧ decode pins [0xFF123456#32] = .refused .reservedOpcode :=
  ⟨rfl, rfl, rfl⟩
/-- V5.4, V5.5, V5.7, V1.13, V6.13: reserved fields. -/
theorem test_refuse_reserved_field : decode pins [0x01010100#32] = .refused .reservedField ∧
    decode pins [0x01000104#32] = .refused .reservedField ∧ decode pins [0x02000112#32] = .refused .reservedField ∧
    decode pins [0x03000001#32] = .refused .reservedField ∧ decode pins [0x07010000#32] = .refused .reservedField := by decide
/-- V7.10, V9.7, V9.5: reserved fields, that of a colour word too. -/
theorem test_refuse_reserved_field_more : decode pins [0x08000001#32] = .refused .reservedField ∧
    decode pins [0x0A010000#32] = .refused .reservedField ∧
    decode pins [0x0A000001#32, 0x01000000#32] = .refused .reservedField := by decide
/-- V5.3, V5.8, V6.10 to V6.12: the values of word 0, the mode before the length. -/
theorem test_refuse_word_values :
    decode pins [0x01000000#32] = .refused .clkDivZero ∧ decode pins [0x02000030#32] = .refused .pinInvalid ∧
    decode pins [0x07000000#32] = .refused .lengthZero ∧ decode pins [0x07000101#32, wordB] = .refused .mode ∧
    decode pins [0x07000001#32] = .refused .mode := by decide
/-- V10.4, V10.5, V2.13, V6.14, V9.6: truncated words. -/
theorem test_refuse_truncated : ∀ ws ∈ [[0x04000000#32], [0x05800000#32, 0x00448020#32], [0x04000000#32, 0x190#32],
    [0x07000200#32, 0x00248040#32], [0x0A000002#32, 0x00FF0000#32]], decode pins ws = .refused .truncated := by decide
/-- R157: R_TRUNCATED before the reserved field of a colour word. -/
theorem test_refuse_truncated_first : decode pins [0x0A000002#32, 0xFF000000#32] = .refused .truncated := by decide
/-- R49: the bytes of `0x01000102`. -/
theorem test_bytes_least_first : bytesOfWords [0x01000102#32] = [0x02#8, 0x01#8, 0x00#8, 0x01#8] := by decide
/-- The opcode-table numbering: bit 0 is word 0's bit 0, the second word's bits count on from 32. -/
theorem test_table_word : decodeTableWord 96 (0x05800000 + 0x00448020 * 2 ^ 32 + 0x00248040 * 2 ^ 64) =
    some (.encodeColor 0x800000#24 wordA wordB) := by decide
/-- R63: the symbol of `A`, and the word of `sym(1, 64, 0, 36)`. -/
theorem test_symbol_words : symOf wordA = ⟨true, 32, false, 68⟩ ∧ symWord ⟨true, 64, false, 36⟩ = wordB := by decide

/-! ## The pure commands -/

/-- V1.3, V1.4, V1.7, V1.8, V1.9. -/
theorem test_derive_ticks : ticksOf 250 10000000 = 3 ∧ ticksOf 449 10000000 = 4 ∧ ticksOf 400 0 = 0 ∧
    ticksOf 1 500000000 = 1 ∧ ticksOf 1 499999999 = 0 ∧ ticksOf 4294967295 4294967295 = 18446744065 := by decide
/-- V2.1, V2.7, V2.9. -/
theorem test_build_table : buildTable 150 400 850 800 450 80000000 = .ok (.table wordA wordB) ∧
    buildTable 150 400 850 800 600 80000000 = .ok (.table wordA 0x00308040#32) ∧
    buildTable 150 400 850 800 607 80000000 = .buildErr .period := by decide
/-- V2.4, V2.5, V2.10. -/
theorem test_build_table_errors : buildTable 150 400 850 800 450 1000000 = .buildErr .zeroLength ∧
    buildTable 150 400 850 450 800 4000000 = .buildErr .discrimination ∧
    buildTable 150 500000 850 800 450 80000000 = .buildErr .overflow := by decide
/-- V3. -/
theorem test_pack : packColor .grb ⟨0x12#8, 0x34#8, 0x56#8⟩ = 0x341256#24 ∧ packColor .rgb ⟨0x12#8, 0x34#8, 0x56#8⟩ = 0x123456#24 ∧
    packColor .rbg ⟨0x12#8, 0x34#8, 0x56#8⟩ = 0x125634#24 ∧ packColor .gbr ⟨0x12#8, 0x34#8, 0x56#8⟩ = 0x345612#24 ∧
    packColor .brg ⟨0x12#8, 0x34#8, 0x56#8⟩ = 0x561234#24 ∧ packColor .bgr ⟨0x12#8, 0x34#8, 0x56#8⟩ = 0x563412#24 := by decide
/-- V4.3, V4.4. -/
theorem test_encode : encodeSequence 0x800000#24 wordA wordB = wordB :: List.replicate 23 wordA ∧
    encodeSequence 0x000001#24 wordA wordB = List.replicate 23 wordA ++ [wordB] := by decide
/-- V4.5. -/
theorem test_encode_bits : ((List.range 24).filter fun i => (encodeSequence 0x123456#24 wordA wordB)[i]? == some wordB) =
    [3, 6, 10, 11, 13, 17, 19, 21, 22] := by decide

/-! ## One step of the block -/

/-- V5.2 from reset: the settings are stored, the pin stays undriven. -/
theorem test_step_configure : step (State.reset.load [0x01000103#32]) = .next { State.reset with
    chConf := some ⟨true, true, 1#8⟩, results := [.ok .unit], issued := [0x01000103#32] } := by rfl
/-- V5.9: after the binding. -/
theorem test_configure_after_bind : exec (.configure false false 1#8) boundState =
    .next { boundState with fault := some ⟨.configAfterBind, 0, 0x01#8, none⟩ } := by rfl
/-- V5.6: the pin is assigned and driven. -/
theorem test_assign_pin : exec (.assignPin 18#8) { State.reset with chConf := some (conf false) } =
    .next { pinned false with results := [.ok .unit] } := by rfl
/-- A table word of DERIVE_TICKS is fetched and run as the first command after reset. -/
theorem test_step_derive_ticks : step (State.reset.withFetchWord 96 (0x03000000 + 400 * 2 ^ 32 + 80000000 * 2 ^ 64)) =
    .next { State.reset with results := [.ok (.ticks 32)], issued := [0x03000000#32, 400#32, 80000000#32] } := by
  have h : tableWords 96 (0x03000000 + 400 * 2 ^ 32 + 80000000 * 2 ^ 64) = [0x03000000#32, 400#32, 80000000#32] := by decide
  rw [State.withFetchWord, h]
  rfl
/-- V6.15: the fault names its command, opcode 0x07. -/
theorem test_step_send_not_configured : step (State.reset.load [0x07000100#32, 0x00248040#32]) = .next { State.reset with
    fault := some ⟨.notConfigured, 0, 0x07#8, none⟩, issued := [0x07000100#32, 0x00248040#32] } := by rfl
/-- V6.2: the sequence is copied whole, its first symbol is to be emitted. -/
theorem test_send_accepted : ∃ t, exec (.sendPulseSequence .oneShot [wordB, 0#32, wordA]) (pinned false) = .next t ∧
    t.chMem = [(0, wordB), (1, 0#32), (2, wordA)] ∧ t.txLen = 1 ∧ t.txState = .busy ∧ t.caller = .waiting 0 .pulseSequence := by
  have hz : ∀ v ∈ [wordB, 0#32, wordA].take (firstTerminator [wordB, 0#32, wordA]), isHalfZero v = false := by
    rw [show [wordB, 0#32, wordA].take (firstTerminator [wordB, 0#32, wordA]) = [wordB] from rfl]
    intro v hv
    rw [List.mem_singleton.mp hv]
    rfl
  have h := accept_accepted (x := .pulseSequence) (j := 0) (s := pinned false) (conf := conf false) rfl rfl rfl (by decide)
    (Nat.le_trans (show [wordB, 0#32, wordA].length ≤ 24 by decide) chanCap_range.1) hz
  exact ⟨_, congrArg (fun a => conclude .sendPulseSequence a (pinned false)) h, rfl, rfl, rfl, rfl⟩
/-- V7.2 and V7.3. -/
theorem test_driver_new_faults : exec (.driverNew wordA wordB) boundState =
      .next { boundState with fault := some ⟨.alreadyBound, 0, 0x08#8, none⟩ } ∧
    exec (.driverNew wordA wordB) State.reset = .next { State.reset with fault := some ⟨.notConfigured, 0, 0x08#8, none⟩ } :=
  ⟨rfl, rfl⟩
/-- V7.5 to V7.8 and V7.1: the checks of a table at 80 MHz with a tolerance of 150 ns. -/
theorem test_table_checks : wfError 150 80000000 (symOf wordB) (symOf wordA) = some .discrimination ∧
    wfError 150 80000000 (symOf 0x80440020#32) (symOf wordB) = some .levels ∧
    wfError 150 80000000 (symOf wordA) (symOf 0#32) = some .levels ∧
    wfError 150 80000000 (symOf wordA) (symOf 0x00408040#32) = some .period ∧
    wfError 150 80000000 (symOf wordA) (symOf wordB) = none := by decide
/-- V8.8: the carrier's fault under SEND_ONE's own opcode. -/
theorem test_send_one_carrier : exec (.sendOne ⟨1#8, 2#8, 3#8⟩) { pinned true with drvTable := some (wordA, wordB) } =
    .next { pinned true with drvTable := some (wordA, wordB), fault := some ⟨.carrierEnabled, 0, 0x09#8, none⟩ } := by rfl
/-- V8.7 and V9.8: unbound. -/
theorem test_send_not_bound : exec (.sendOne ⟨0#8, 0x80#8, 0#8⟩) (pinned false) =
      .next { pinned false with fault := some ⟨.notBound, 0, 0x09#8, none⟩ } ∧
    exec (.sendMany []) (pinned false) = .next { pinned false with fault := some ⟨.notBound, 0, 0x0A#8, none⟩ } := ⟨rfl, rfl⟩
/-- V9.1: no colour. -/
theorem test_send_many_empty : exec (.sendMany []) boundState = .next { boundState with results := [.ok .unit] } := by rfl
/-- V6.6, its first half-symbol: `Timed(1, 64)`. -/
theorem test_step_emits : step (busyState .sendOne (.fail .other 1) 0) =
    .next { busyState .sendOne (.fail .other 1) 1 with pinOut := .driven true, wave := [.timed true 64 1#8] } := by rfl
/-- V6.6, its end. -/
theorem test_step_fails : step (busyState .sendOne (.fail .other 1) 1) =
    .next { busyState .sendOne (.fail .other 1) 1 with txState := .idle, txResult := some (.err .other) } := by rfl
/-- P7: a reserved opcode. -/
theorem test_step_refuses : step (State.reset.load [0x0B000000#32, 0x02000012#32]) =
    .next { State.reset with refused := some ⟨.reservedOpcode, 0⟩, pending := [0x0B000000#32, 0x02000012#32] } := by rfl
/-- R39: the registers of `S1`: CH_CONF, CH_PIN, CH_STATUS, the table; CH_MEM holds no value. -/
theorem test_registers : [0, 1, 2, 3, 4, 5].map boundState.register =
    [some 0x100, some 18, some 0, some 0x00448020, some 0x00248040, none] := by decide
/-- V11.1 to V11.5, the divider 1 giving 80 MHz. -/
theorem test_latch_readings :
    latchReading 5000 (fun _ => 80000000) [.timed true 32 1#8, .timed false 68 1#8] false 6000 = .endOfFrame ∧
    latchReading 5000 (fun _ => 80000000) [.timed true 32 1#8, .timed false 68 1#8] false 4000 = .sameFrame ∧
    latchReading 5000 (fun _ => 80000000) [.timed true 32 1#8, .timed false 68 1#8] false 4500 = .either ∧
    latchReading 5000 (fun _ => 80000000) [.timed true 64 1#8, .timed false 36 1#8] false 4500 = .sameFrame ∧
    latchReading 5000 (fun _ => 80000000) [.timed true 64 1#8, .timed false 36 1#8] false 5000 = .either := by
  refine ⟨?_, ?_, ?_, ?_, ?_⟩ <;>
    norm_num [latchReading, trailingLow, Segment.isLowTimed, Segment.duration, nanoseconds]
/-- R10, R140: two halves of 100 ticks at two dividers, one at 80 MHz and one at 10 MHz, with a gap of their level between. -/
theorem test_physical_line : physicalLine (fun d => if d = 1#8 then 80000000 else 10000000)
    [.timed false 100 1#8, .gap false 50, .timed false 100 8#8] = [(false, 11300)] := by
  norm_num [physicalLine, joinLine, Segment.level, Segment.duration, nanoseconds, show ¬ (8#8 : Byte) = 1#8 by decide]

/-! ## Witnesses: states and operands that meet the hypotheses of the statements -/

/-- The table of `A` and `B` passes the checks at every tick rate with every tolerance: its periods are equal. -/
theorem table_ok (tol hz : Nat) : wfError tol hz (symOf wordA) (symOf wordB) = none := by
  have h : absDiff (periodTicks (symOf wordB)) (periodTicks (symOf wordA)) = 0 := by decide
  have hp : periodOk tol hz (symOf wordA) (symOf wordB) = true := by
    rw [periodOk, h, Nat.zero_mul]
    exact decide_eq_true (Nat.zero_le _)
  rw [wfError, hp, show levelsOk (symOf wordA) (symOf wordB) = true by decide,
    show nonzeroOk (symOf wordA) (symOf wordB) = true by decide, show fitOk (symOf wordA) (symOf wordB) = true by decide,
    show discrimOk (symOf wordA) (symOf wordB) = true by decide]
  rfl

theorem lengths_A : BothLengths wordA := by unfold BothLengths; decide
theorem lengths_B : BothLengths wordB := by unfold BothLengths; decide
theorem accepts_pinned : (pinned false).Accepts (conf false) := ⟨rfl, rfl, rfl, by decide⟩
theorem accepts_bound : boundState.Accepts (conf false) := ⟨rfl, rfl, rfl, by decide⟩

theorem witness_SpecWordsDecode : pins 18#8 = true := by decide
theorem witness_DecodeOfEncodeGivesCommand :
    (Instr.sendMany twoColors).wf pins = true ∧ (Instr.assignPin 39#8).wf pins = true := by decide
theorem witness_DecodedWordsAreEncoded :
    decode pins [0x06123456#32, 0x09008000#32] = .ok (.pack ⟨0x12#8, 0x34#8, 0x56#8⟩) [0x09008000#32] := by decide
/-- The lowest and the highest opcode on each side of the bounds. -/
theorem witness_ReservedOpcodeRefused : ((0x00FFFFFF#32 : Word).toNat / 2 ^ 24 = 0) ∧ (0x0B ≤ (0x0B000000#32 : Word).toNat / 2 ^ 24) ∧
    ¬ ((0x01000100#32 : Word).toNat / 2 ^ 24 = 0 ∨ 0x0B ≤ (0x01000100#32 : Word).toNat / 2 ^ 24) := by decide
theorem witness_ReservedFieldRefused :
    ((0x0100FF04#32 : Word).toNat / 2 ^ 24 = 0x01 ∧ (0x0100FF04#32 : Word).toNat / 2 ^ 2 % 2 ^ 6 ≠ 0) ∧
    ((0x0A000001#32 : Word).toNat / 2 ^ 16 = 0x0A00 ∧ (0x0A000001#32 : Word).toNat % 2 ^ 16 ≤ [0x01000000#32].length ∧
      (0x01000000#32 : Word) ∈ [0x01000000#32].take ((0x0A000001#32 : Word).toNat % 2 ^ 16) ∧
      (0x01000000#32 : Word).toNat / 2 ^ 24 ≠ 0) := by decide
theorem witness_WordZeroValuesRefused : pins 40#8 = false := by decide
/-- The three clauses; the second is a SEND_MANY of two colours cut after one whose reserved field is not zero. -/
theorem witness_TruncatedWordsRefused :
    (Opcode.ofCode (opcodeField 0x07000200#32) = some .sendPulseSequence ∧
      fieldsZero Opcode.sendPulseSequence.reservedFields 0x07000200#32 = true ∧
      Opcode.sendPulseSequence.valueRefusal pins 0x07000200#32 = none ∧
      [wordB].length < Opcode.sendPulseSequence.operandWords 0x07000200#32) ∧
    ((0x0A000002#32 : Word).toNat / 2 ^ 16 = 0x0A00 ∧ [0xFF000000#32].length < (0x0A000002#32 : Word).toNat % 2 ^ 16) ∧
    (Instr.driverNew wordA wordB).wf pins = true ∧ 0 < 2 ∧ 2 < (encode (.driverNew wordA wordB)).length := by decide
theorem witness_SymbolWordLayout :
    (⟨true, 32767, false, 0⟩ : PulseSymbol).length1 ≤ Config.durMax ∧ (⟨true, 32767, false, 0⟩ : PulseSymbol).length2 ≤ Config.durMax := by
  decide
/-- A bound driver's state with a Ready caller: the hypothesis of the statements about the pure commands. -/
theorem witness_DeriveTicksReturnsTicks : boundState.caller = .ready := rfl
theorem witness_BuildTableReturnsTable : State.reset.caller = .ready := rfl
theorem witness_PackReturnsWireOrder : boundState.caller = .ready := rfl
theorem witness_EncodeReturnsSequence : boundState.caller = .ready := rfl
theorem witness_PureCommandsWriteResultsOnly : boundState.caller = .ready ∧
    ∃ t, exec (.pack ⟨1, 2, 3⟩) boundState = .next t := ⟨rfl, _, rfl⟩
/-- V1.10 and V1.11. -/
theorem witness_TicksMonotoneInClock : 3000000 < 4000000 := by decide
theorem witness_TicksWithinHalfATick : 0 < 80000000 := by decide
/-- One pair of symbols under each clause (V7, V2.9): none, E_LEVELS, E_ZERO_LENGTH, E_OVERFLOW, E_DISCRIMINATION, E_PERIOD. -/
theorem witness_FirstFailedCheckIsReported :
    wfError 150 80000000 (highLow 32 68) (highLow 64 48) = none ∧
    wfError 150 80000000 ⟨false, 32, true, 68⟩ (highLow 64 36) = some .levels ∧
    wfError 150 80000000 (highLow 32 0) (highLow 64 36) = some .zeroLength ∧
    wfError 150 80000000 (highLow 32768 68) (highLow 64 36) = some .overflow ∧
    wfError 150 80000000 (highLow 64 36) (highLow 64 36) = some .discrimination ∧
    wfError 150 80000000 (highLow 32 68) (highLow 64 49) = some .period := by decide
theorem witness_BuildTableAgreesWithChecks :
    wfError 150 80000000 (highLow (ticksOf 400 80000000) (ticksOf 850 80000000)) (highLow (ticksOf 800 80000000) (ticksOf 450 80000000)) = none ∧
    wfError 150 80000000 (highLow (ticksOf 400 80000000) (ticksOf 850 80000000)) (highLow (ticksOf 800 80000000) (ticksOf 607 80000000)) =
      some .period := by decide
theorem witness_EncodedOnesCountBits : wordA ≠ wordB := by decide
theorem witness_ColorBitPosition : 7 < 8 ∧
    [(wireChannels .grb).1, (wireChannels .grb).2.1, (wireChannels .grb).2.2][2]? = some .b := by decide
theorem witness_EncoderMakesNoZeroLengths : wfError 150 80000000 (symOf wordA) (symOf wordB) = none := table_ok _ _

/-- Both clauses: after and before the binding. -/
theorem witness_ConfigureSetsChannel : boundState.caller = .ready ∧ boundState.drvTable ≠ none ∧
    (pinned true).caller = .ready ∧ (pinned true).drvTable = none := by decide
/-- The three clauses. -/
theorem witness_AssignPinSetsPin : boundState.drvTable ≠ none ∧ (State.reset.drvTable = none ∧ State.reset.chConf = none) ∧
    (pinned true).drvTable = none ∧ (pinned true).chConf = some (conf true) := by decide
theorem witness_SendPulseSequenceAccepted : (pinned false).Accepts (conf false) ∧ [wordB, 0#32, wordH].length ≤ Config.chanCap ∧
    ∀ v ∈ [wordB, 0#32, wordH].take (firstTerminator [wordB, 0#32, wordH]), isHalfZero v = false := by
  refine ⟨accepts_pinned, Nat.le_trans (show [wordB, 0#32, wordH].length ≤ 24 by decide) chanCap_range.1, ?_⟩
  rw [show [wordB, 0#32, wordH].take (firstTerminator [wordB, 0#32, wordH]) = [wordB] from rfl]
  intro v hv
  rw [List.mem_singleton.mp hv]
  rfl
/-- The six clauses: unconfigured, no pin, the carrier on, Busy, too long for every CHAN_CAP, a half-zero symbol. -/
theorem witness_SendPulseSequenceTurnedAway :
    (State.reset.caller = .ready ∧ State.reset.chConf = none) ∧
    ({ pinned false with chPin := none } : State).chConf = some (conf false) ∧
    ((pinned true).chConf = some (conf true) ∧ (pinned true).chPin ≠ none ∧ (conf true).carrierEn = true) ∧
    ({ pinned false with txState := .busy } : State).caller = .ready ∧
    ((pinned false).Accepts (conf false) ∧ Config.chanCap < (List.replicate 256 wordB).length) ∧
    ([wordH].length ≤ Config.chanCap ∧ ∃ v ∈ [wordH].take (firstTerminator [wordH]), isHalfZero v = true) := by
  refine ⟨by decide, rfl, by decide, rfl, ⟨accepts_pinned, ?_⟩, ?_, wordH, ?_, rfl⟩
  · rw [List.length_replicate]
    exact Nat.lt_succ_of_le chanCap_range.2
  · exact Nat.le_trans (show [wordH].length ≤ 24 by decide) chanCap_range.1
  · rw [show [wordH].take (firstTerminator [wordH]) = [wordH] from rfl]
    exact List.mem_singleton.mpr rfl
theorem witness_FirstTerminatorIsFirst : 0 < firstTerminator [wordB, 0#32] ∧ [wordB, 0#32][0]? = some wordB ∧
    firstTerminator [wordB, 0#32] < [wordB, 0#32].length := by decide
theorem witness_AcceptedSequenceInBuffer : ∃ t, exec (.sendPulseSequence .oneShot [wordB]) (pinned false) = .next t ∧
    (pinned false).txState ≠ .busy ∧ t.txState = .busy := by
  have h := accept_accepted (x := .pulseSequence) (j := 0) (q := [wordB]) (s := pinned false) (conf := conf false) rfl rfl rfl
    (by decide) (Nat.le_trans (show [wordB].length ≤ 24 by decide) chanCap_range.1) (by
      rw [show [wordB].take (firstTerminator [wordB]) = [wordB] from rfl]
      intro v hv
      rw [List.mem_singleton.mp hv]
      rfl)
  exact ⟨_, congrArg (fun a => conclude .sendPulseSequence a (pinned false)) h, by decide, rfl⟩

/-- The five clauses: bound, unconfigured, no pin, a table that fails at every rate, a table that passes at every rate. -/
theorem witness_DriverNewBinds : boundState.drvTable ≠ none ∧ (State.reset.drvTable = none ∧ State.reset.chConf = none) ∧
    (({ pinned false with chPin := none } : State).chConf = some (conf false) ∧
      ({ pinned false with chPin := none } : State).chPin = none) ∧
    ((pinned true).drvTable = none ∧ (pinned true).chConf = some (conf true) ∧ (pinned true).chPin ≠ none ∧
      (pinned true).caller = .ready) ∧
    wfError Config.periodTolNs (Config.tickHz (conf true).clockDiv) (symOf wordA) (symOf 0#32) = some .levels ∧
    wfError Config.periodTolNs (Config.tickHz (conf true).clockDiv) (symOf wordA) (symOf wordB) = none :=
  ⟨by decide, by decide, by decide, by decide, rfl, table_ok _ _⟩
theorem witness_SendOneHandsOverColor : (pinned false).drvTable = none ∧ boundState.drvTable = some (wordA, wordB) ∧
    boundState.Accepts (conf false) ∧ BothLengths wordA ∧ BothLengths wordB := ⟨rfl, rfl, accepts_bound, lengths_A, lengths_B⟩
theorem witness_SendManyHandsOverFirstColor : (pinned false).drvTable = none ∧
    (boundState.drvTable ≠ none ∧ boundState.caller = .ready) ∧ boundState.drvTable = some (wordA, wordB) ∧
    boundState.Accepts (conf false) ∧ BothLengths wordA ∧ BothLengths wordB :=
  ⟨rfl, by decide, rfl, accepts_bound, lengths_A, lengths_B⟩

/-- A bound SEND_ONE and a bound SEND_MANY are accepted, and leave the channel Busy. -/
theorem sendColor_accepted (op : Opcode) (x : Sender) (c : ColorValue) :
    ∃ t, sendColor op x 0 c boundState = .next t ∧ t.txState = .busy := by
  have hz : ∀ v ∈ encodeSequence (packColor Config.channelOrder c) wordA wordB, isHalfZero v = false := by
    intro v hv
    rcases mem_encodeSequence hv with rfl | rfl <;> rfl
  have hl : (encodeSequence (packColor Config.channelOrder c) wordA wordB).length ≤ Config.chanCap := by
    rw [encodeSequence_length]; exact chanCap_range.1
  show ∃ t, conclude op (accept x 0 (encodeSequence (packColor Config.channelOrder c) wordA wordB) boundState) boundState = .next t ∧ _
  generalize encodeSequence (packColor Config.channelOrder c) wordA wordB = q at hz hl ⊢
  rw [accept_accepted accepts_bound.configured accepts_bound.pinAssigned accepts_bound.carrierOff accepts_bound.notBusy hl
    (fun v hv => hz v (List.mem_of_mem_take hv))]
  exact ⟨_, rfl, rfl⟩

theorem witness_AcceptedColorInBuffer : boundState.drvTable = some (wordA, wordB) ∧ boundState.txState ≠ .busy ∧
    (∃ t, exec (.sendOne ⟨0#8, 0x80#8, 0#8⟩) boundState = .next t ∧ t.txState = .busy) ∧
    ∃ t, exec (.sendMany twoColors) boundState = .next t ∧ t.txState = .busy := by
  refine ⟨rfl, by decide, ?_, ?_⟩
  · obtain ⟨t, h, hb⟩ := sendColor_accepted .sendOne .sendOne ⟨0#8, 0x80#8, 0#8⟩
    exact ⟨t, h, hb⟩
  · obtain ⟨t, h, hb⟩ := sendColor_accepted .sendMany (.sendMany twoColors) ⟨0xFF#8, 0#8, 0#8⟩
    exact ⟨t, h, hb⟩
/-- The five clauses; the table of the last holds a half-zero symbol in both places, so that every colour has one. -/
theorem witness_SendColorTurnedAway :
    ({ State.reset with drvTable := some (wordA, wordB) } : State).chConf = none ∧
    (({ boundState with chPin := none } : State).chConf = some (conf false) ∧ ({ boundState with chPin := none } : State).chPin = none) ∧
    (({ pinned true with drvTable := some (wordA, wordB) } : State).chConf = some (conf true) ∧ (conf true).carrierEn = true) ∧
    (({ boundState with txState := .busy } : State).caller = .ready ∧ ({ boundState with txState := .busy } : State).txState = .busy) ∧
    (({ pinned false with drvTable := some (wordH, wordH) } : State).Accepts (conf false) ∧
      ∃ v ∈ (encodeSequence 0#24 wordH wordH).take (firstTerminator (encodeSequence 0#24 wordH wordH)), isHalfZero v = true) := by
  refine ⟨rfl, by decide, by decide, by decide, ⟨rfl, rfl, rfl, by decide⟩, wordH, ?_, rfl⟩
  rw [show (encodeSequence 0#24 wordH wordH).take (firstTerminator (encodeSequence 0#24 wordH wordH)) = List.replicate 24 wordH from rfl]
  exact List.mem_replicate.mpr ⟨by decide, rfl⟩
/-- Both clauses: an `Ok` with a colour left, and the hand-over of the last colour. -/
theorem witness_SendManyGoesOn :
    ((endedState 0 (.sendMany twoColors) .ok).caller = .waiting 0 (.sendMany twoColors) ∧
      (endedState 0 (.sendMany twoColors) .ok).txResult = some .ok ∧ 0 + 1 < twoColors.length ∧
      (endedState 0 (.sendMany twoColors) .ok).fault = none ∧ (endedState 0 (.sendMany twoColors) .ok).refused = none) ∧
    (twoColors[1]? = some ⟨0#8, 0#8, 0xFF#8⟩ ∧
      ({ boundState with caller := .waiting 1 (.sendMany twoColors) } : State).Accepts (conf false) ∧
      ({ boundState with caller := .waiting 1 (.sendMany twoColors) } : State).txResult = none ∧
      ({ boundState with caller := .waiting 1 (.sendMany twoColors) } : State).txState = .idle) ∧
    BothLengths wordA ∧ BothLengths wordB :=
  ⟨by decide, ⟨rfl, ⟨rfl, rfl, rfl, by decide⟩, rfl, rfl⟩, lengths_A, lengths_B⟩
/-- Both clauses, SEND_MANY at its first and at its last colour. -/
theorem witness_SendReturnsOutcome :
    ((endedState 0 (.sendMany twoColors) (.err .overrun)).txResult = some (.err .overrun) ∧
      (endedState 0 (.sendMany twoColors) (.err .overrun)).caller = .waiting 0 (.sendMany twoColors)) ∧
    ((endedState 1 (.sendMany twoColors) .ok).txResult = some .ok ∧ twoColors.length ≤ 1 + 1 ∧
      (endedState 1 (.sendMany twoColors) .ok).fault = none ∧ (endedState 1 (.sendMany twoColors) .ok).refused = none) := by decide

/-- Both clauses: half-symbol 2 and half-symbol 3 of `[B, A]`, the two halves of word 1. -/
theorem witness_TransmitterEmitsHalf :
    ((busyState .sendOne .complete 2).txPos = 2 * 1 ∧ (busyState .sendOne .complete 2).txPos < Plan.stop 2 .complete ∧
      ChMem.read (busyState .sendOne .complete 2).chMem 1 = some wordA ∧ (busyState .sendOne .complete 2).txPlan = some .complete ∧ (busyState .sendOne .complete 2).chConf = some (conf false)) ∧
    ((busyState .sendOne (.hang 4) 3).txPos = 2 * 1 + 1 ∧ (busyState .sendOne (.hang 4) 3).txPos < Plan.stop 2 (.hang 4) ∧
      (busyState .sendOne (.hang 4) 3).caller = .waiting 0 .sendOne ∧ (busyState .sendOne (.hang 4) 3).txResult = none ∧
      (busyState .sendOne (.hang 4) 3).txState = .busy) := by decide
/-- The three ends, each at its bound. -/
theorem witness_TransmissionEnds :
    ((busyState .sendOne .complete 4).txPos = 2 * (busyState .sendOne .complete 4).txLen ∧
      (busyState .sendOne .complete 4).chConf = some (conf false)) ∧
    ((busyState .sendOne (.fail .other 0) 0).txPos = 0 ∧ (busyState .sendOne (.fail .other 0) 0).txPlan = some (.fail .other 0)) ∧
    ((busyState .pulseSequence (.hang 3) 3).txPos = 3 ∧ (busyState .pulseSequence (.hang 3) 3).txPlan = some (.hang 3) ∧
      (busyState .pulseSequence (.hang 3) 3).txState = .busy) := by decide
theorem witness_StuckForEver : hungState.Stuck ∧ hungState.txResult = none ∧ hungState.fault = none ∧ hungState.refused = none :=
  ⟨⟨⟨0, .sendOne, rfl⟩, rfl⟩, rfl, rfl, rfl⟩
theorem witness_TransmissionFollowsPlan : (busyState .pulseSequence (.fail .other 3) 0).txState = .busy ∧
    Plan.Bounded 2 (.fail .other 3) ∧ (busyState .pulseSequence (.fail .other 3) 0).txPlan = some (.fail .other 3) ∧
    (busyState .pulseSequence (.fail .other 3) 0).txLen = [wordB, wordA].length ∧
    ∀ i, i < [wordB, wordA].length → ChMem.read (busyState .pulseSequence (.fail .other 3) 0).chMem i = [wordB, wordA][i]? := by
  refine ⟨rfl, by unfold Plan.Bounded; decide, rfl, rfl, ?_⟩
  decide
theorem witness_SendOneEmitsColor : boundState.fault = none ∧ boundState.refused = none ∧
    boundState.drvTable = some (wordA, wordB) ∧ boundState.Accepts (conf false) ∧ BothLengths wordA ∧ BothLengths wordB ∧
    ∃ t, exec (.sendOne ⟨0#8, 0x80#8, 0#8⟩) boundState = .next t := by
  obtain ⟨t, h, -⟩ := sendColor_accepted .sendOne .sendOne ⟨0#8, 0x80#8, 0#8⟩
  exact ⟨rfl, rfl, rfl, accepts_bound, lengths_A, lengths_B, t, h⟩

/-- A transmission in flight meets the invariant. -/
theorem busy_inv : (busyState .sendOne .complete 1 |>.emitHalf true 64 1#8).Inv where
  memoryForm := by decide
  memoryWithin := by
    have h := chanCap_range.1
    show (decide (0 < Config.chanCap) && (decide (1 < Config.chanCap) && true)) = true
    rw [decide_eq_true (show 0 < Config.chanCap by omega), decide_eq_true (show 1 < Config.chanCap by omega)]
    rfl
  dividerLegal := by
    intro c hc
    simp only [State.emitHalf, busyState, boundState, pinned, Option.some.injEq] at hc
    subst hc
    decide
  bound := by
    intro t ht
    simp only [State.emitHalf, busyState, boundState, Option.some.injEq] at ht
    subst ht
    exact ⟨conf false, rfl, rfl, table_ok _ _⟩
  lengthFits := Nat.le_trans (show 2 ≤ 24 by decide) chanCap_range.1
  positionFits := by decide
  busy := fun _ =>
    { callerWaits := ⟨0, .sendOne, rfl⟩
      noResult := rfl
      configured := ⟨conf false, rfl, rfl⟩
      pinAssigned := rfl
      planned := ⟨.complete, rfl, by unfold Plan.Bounded; decide, by decide⟩
      symbols := by
        intro i hi
        have hi' : i < 2 := hi
        obtain rfl | rfl : i = 0 ∨ i = 1 := by omega
        · exact ⟨wordB, rfl, lengths_B⟩
        · exact ⟨wordA, rfl, lengths_A⟩
      pinDriven := ⟨true, rfl⟩ }
  hung := by intro h; cases h
  idle := by intro h; cases h
  ready := by intro h; cases h
  sender := by
    intro j x hc
    obtain ⟨rfl, rfl⟩ : 0 = j ∧ Sender.sendOne = x := by simpa [State.emitHalf, busyState] using hc
    exact ⟨rfl, rfl⟩
  between := by intro j x _ h; cases h
  oneMark := .inl rfl
  markedIdle := by intro h; rcases h with h | h <;> exact absurd rfl h

/-- The state of `busy_inv` and the step from it. -/
theorem witness_StepKeepsInvariant : ∃ s t : State, s.Inv ∧ s.txState = .busy ∧ step s = .next t ∧ t.txPos = 3 :=
  ⟨_, _, busy_inv, rfl, rfl, rfl⟩
theorem witness_AgentsTakeTurns : ∃ s : State, s.Inv ∧ s.txState = .busy := ⟨_, busy_inv, rfl⟩
/-- No pin is assigned yet, and a command runs. -/
theorem witness_StepKeepsPinLegal : (State.reset.load [0x06123456#32]).PinLegal ∧
    ∃ t, step (State.reset.load [0x06123456#32]) = .next t := by
  refine ⟨?_, _, rfl⟩
  intro p hp
  cases hp

/-- A state with a mark, Idle after reset, meets the invariant. -/
theorem marked_inv (f : Option FaultRecord) (r : Option RefusalRecord) (h : f = none ∨ r = none) :
    ({ State.reset with fault := f, refused := r } : State).Inv where
  memoryForm := rfl
  memoryWithin := rfl
  dividerLegal := by intro c hc; cases hc
  bound := by intro t ht; cases ht
  lengthFits := Nat.zero_le _
  positionFits := Nat.zero_le _
  busy := by intro h; cases h
  hung := by intro h; cases h
  idle := fun _ => rfl
  ready := fun _ => ⟨rfl, rfl⟩
  sender := by intro j x hc; cases hc
  between := by intro j x hc; cases hc
  oneMark := h
  markedIdle := fun _ => rfl

/-- Both clauses: a faulted and a refused state. -/
theorem witness_StopsOnlyWhereMarked :
    (∃ s : State, s.Inv ∧ step s = .fault (.raised ⟨.notBound, 0, 0x09#8, none⟩)) ∧
    ∃ s : State, s.Inv ∧ step s = .refused (.noCommand ⟨.reservedOpcode, 0⟩) :=
  ⟨⟨_, marked_inv (some ⟨.notBound, 0, 0x09#8, none⟩) none (.inr rfl), rfl⟩,
    ⟨_, marked_inv none (some ⟨.reservedOpcode, 0⟩) (.inl rfl), rfl⟩⟩
theorem witness_RestsOnlyWhenFinalOrStuck : ∃ s : State, s.Inv ∧ step s = .next s :=
  ⟨_, marked_inv none none (.inl rfl), rfl⟩
/-- A step that emits a half-symbol: the waveform grows. -/
theorem witness_LogsOnlyGrow : ∃ t, step (busyState .sendOne .complete 0) = .next t := ⟨_, rfl⟩
theorem witness_WaveformWriters : ∃ t, step (busyState .sendOne .complete 0) = .next t ∧
    t.wave ≠ (busyState .sendOne .complete 0).wave := by
  refine ⟨_, rfl, ?_⟩
  decide
/-- The words of a SEND_ONE stand next in a bound block. -/
theorem witness_BufferWriters : ∃ t, step (boundState.load [0x09008000#32]) = .next t ∧
    t.chMem ≠ (boundState.load [0x09008000#32]).chMem := by
  have hz : ∀ v ∈ encodeSequence (packColor Config.channelOrder ⟨0#8, 0x80#8, 0#8⟩) wordA wordB, isHalfZero v = false := by
    intro v hv
    rcases mem_encodeSequence hv with rfl | rfl <;> rfl
  have hl := encodeSequence_length (packColor Config.channelOrder ⟨0#8, 0x80#8, 0#8⟩) wordA wordB
  show ∃ t, conclude .sendOne (accept .sendOne 0 (encodeSequence (packColor Config.channelOrder ⟨0#8, 0x80#8, 0#8⟩) wordA wordB)
    ((boundState.load [0x09008000#32]).issue [])) ((boundState.load [0x09008000#32]).issue []) = .next t ∧ _
  generalize encodeSequence (packColor Config.channelOrder ⟨0#8, 0x80#8, 0#8⟩) wordA wordB = q at hz hl ⊢
  rw [accept_accepted (conf := conf false) rfl rfl rfl (show TxState.idle ≠ .busy by decide) (by rw [hl]; exact chanCap_range.1)
    (fun v hv => hz v (List.mem_of_mem_take hv))]
  refine ⟨_, rfl, fun he => ?_⟩
  have hr := ChMem.read_writeFrom_inside q [] (i := 0) (k := 0) (by omega)
  have hn : ChMem.writeFrom 0 q [] = [] := he
  rw [hn, List.getElem?_eq_getElem (by omega)] at hr
  cases hr
theorem witness_BoundChannelIsFrozen : boundState.drvTable ≠ none ∧
    ∃ t, step (boundState.load [0x01000100#32]) = .next t := ⟨by decide, _, rfl⟩
/-- The clauses about a faulted state: an Idle one, and a Busy one, which no run reaches. -/
theorem witness_FaultIsSticky :
    (State.reset.raiseFault .notBound none .sendOne).fault = some ⟨.notBound, 0, 0x09#8, none⟩ ∧
    (State.reset.raiseFault .notBound none .sendOne).txState ≠ .busy ∧
    ∃ t, step { busyState .sendOne .complete 0 with fault := some ⟨.notBound, 0, 0x09#8, none⟩ } = .next t :=
  ⟨rfl, by decide, _, rfl⟩
theorem witness_RefusalIsSticky : (State.reset.refuse .truncated).refused = some ⟨.truncated, 0⟩ ∧
    (State.reset.refuse .truncated).fault = none ∧ (State.reset.refuse .truncated).txState ≠ .busy ∧
    ∃ t, step { busyState .sendOne .complete 0 with refused := some ⟨.truncated, 0⟩ } = .next t :=
  ⟨rfl, rfl, by decide, _, rfl⟩
theorem witness_StepRunsDecoded : (boundState.load [0x06123456#32, 0x09008000#32]).Issuing ∧
    decode Config.validPin (boundState.load [0x06123456#32, 0x09008000#32]).pending =
      .ok (.pack ⟨0x12#8, 0x34#8, 0x56#8⟩) [0x09008000#32] := ⟨⟨rfl, rfl, rfl⟩, rfl⟩
theorem witness_StepRefusesWords : (State.reset.load [0x0B000000#32]).Issuing ∧
    (State.reset.load [0x0B000000#32]).pending ≠ [] ∧
    decode Config.validPin (State.reset.load [0x0B000000#32]).pending = .refused .reservedOpcode :=
  ⟨⟨rfl, rfl, rfl⟩, by decide, rfl⟩
/-- The clauses of R143's bands at their bounds, for a first transmission that ends with `B` (V11.1, V11.4, V11.5), and the
hypothesis on a transmission: a high segment before the low ones. -/
theorem witness_LatchReadingBands : 5000 < 5001 ∧
    ((4550 : Nat) : ℚ) + trailingLow (fun _ => 80000000) [.timed true 64 1#8, .timed false 36 1#8] ≤ 5000 ∧
    ((5000 : Nat) : ℚ) < ((5000 : Nat) : ℚ) + trailingLow (fun _ => 80000000) [.timed true 64 1#8, .timed false 36 1#8] ∧
    (∃ pre t div, [Segment.timed false 68 1#8, .timed true 64 1#8] = pre ++ [.timed true t div]) := by
  refine ⟨by decide, ?_, ?_, [.timed false 68 1#8], 64, 1#8, rfl⟩ <;>
    norm_num [trailingLow, Segment.isLowTimed, Segment.duration, nanoseconds]
/-- Two transmissions, the second with nothing emitted: the hypothesis on a whole waveform. -/
theorem witness_LatchReadingBands_waveform :
    ∀ x ∈ [(false, 100, [Segment.timed true 64 1#8, .timed false 36 1#8]), (false, 4000, [])],
      ∀ y ∈ x.2.2, ∃ l t div, y = .timed l t div := by
  intro x hx y hy
  simp only [List.mem_cons, List.not_mem_nil, or_false] at hx
  rcases hx with rfl | rfl
  · simp only [List.mem_cons, List.not_mem_nil, or_false] at hy
    rcases hy with rfl | rfl <;> exact ⟨_, _, _, rfl⟩
  · cases hy

end Sys2Proof.Tests
end

/-! # The scope: totality of commands, the marks, and how the waveform is written and read (00_scope.md) -/

namespace Sys2Proof.Machine

/-! ## Ticks and nanoseconds -/

/-- The rounding of R88: the tick count times its divisor is within half the divisor of the exact product. -/
theorem ticksOf_bounds (ns hz : Nat) :
    2 * 10 ^ 9 * ticksOf ns hz ≤ 2 * ns * hz + 10 ^ 9 ∧ 2 * ns * hz ≤ 2 * 10 ^ 9 * ticksOf ns hz + 10 ^ 9 := by
  unfold ticksOf
  omega

/-- Settles O12: the bounds of the rounding, divided by the clock rate. -/
theorem ticksWithinHalfATick : Obligations.TicksWithinHalfATick := by
  intro ns hz hpos
  obtain ⟨hup, hlow⟩ := ticksOf_bounds ns hz
  have hup' : 2 * 10 ^ 9 * (ticksOf ns hz : ℚ) ≤ 2 * ns * hz + 10 ^ 9 := by exact_mod_cast hup
  have hlow' : 2 * (ns : ℚ) * hz ≤ 2 * 10 ^ 9 * ticksOf ns hz + 10 ^ 9 := by exact_mod_cast hlow
  have hq : (0 : ℚ) < hz := by exact_mod_cast hpos
  have hdiff : nanoseconds hz (ticksOf ns hz) - ns = (2 * 10 ^ 9 * ticksOf ns hz - 2 * ns * hz) / (2 * hz) := by
    unfold nanoseconds
    field_simp
  rw [hdiff, abs_div, abs_of_pos (by positivity : (0 : ℚ) < 2 * hz)]
  gcongr
  exact abs_le.mpr ⟨by linarith, by linarith⟩

/-! ## The step of a Busy channel whose caller has none -/

/-- A waiting caller has no step while the channel is Busy without a result (R134). -/
theorem callerStep_eq_none_of_busy {s : State} {j : Nat} {x : Sender} (hc : s.caller = .waiting j x)
    (hr : s.txResult = none) (hb : s.txState = .busy) : callerStep s = none := by
  simp [callerStep, waitingStep, hc, hr, hb]

/-- A marked caller has no step (R154, R156). -/
theorem callerStep_eq_none_of_marked {s : State} (hm : s.fault.isSome || s.refused.isSome) : callerStep s = none := by
  rw [callerStep, if_pos hm]

/-- Where the caller has no step, a Busy channel takes the transmitter's. -/
theorem step_eq_transmitterStep {s : State} (hc : callerStep s = none) (hb : s.txState = .busy) :
    step s = transmitterStep s := by
  simp [step, agentStep, hc, hb]

/-- Where the caller has no step, a channel that is not Busy rests. -/
theorem step_eq_restStep {s : State} (hc : callerStep s = none) (hb : s.txState ≠ .busy) : step s = restStep s := by
  simp [step, agentStep, hc, hb]

/-- Before the plan's stop the transmitter emits the half-symbol at its position (R135). -/
theorem transmitterStep_emits {s : State} {plan : Plan} {v : Word} {conf : ChConf} (hp : s.txPlan = some plan)
    (hlt : s.txPos < plan.stop s.txLen) (hl : s.txPos / 2 < s.txLen) (hv : ChMem.read s.chMem (s.txPos / 2) = some v)
    (hc : s.chConf = some conf) :
    transmitterStep s = .next (s.emitHalf (halfOf s.txPos (symOf v)).1 (halfOf s.txPos (symOf v)).2 conf.clockDiv) := by
  simp [transmitterStep, emitStep, State.memRead, hp, hlt, hl, hv, hc]

@[simp] theorem halfOf_even (i : Nat) (y : PulseSymbol) : halfOf (2 * i) y = (y.level1, y.length1) := by
  simp [halfOf]

@[simp] theorem halfOf_odd (i : Nat) (y : PulseSymbol) : halfOf (2 * i + 1) y = (y.level2, y.length2) := by
  simp [halfOf, Nat.add_mod]

/-- Settles O36: the emission at the position's word, whose half is read off the position's parity. -/
theorem transmitterEmitsHalf : Obligations.TransmitterEmitsHalf := by
  intro j i x plan v conf s hcaller hr hb hc hp hlt hi hv
  have emits : s.txPos / 2 = i →
      step s = .next (s.emitHalf (halfOf s.txPos (symOf v)).1 (halfOf s.txPos (symOf v)).2 conf.clockDiv) := by
    rintro rfl
    rw [step_eq_transmitterStep (callerStep_eq_none_of_busy hcaller hr hb) hb]
    exact transmitterStep_emits hp hlt hi hv hc
  constructor
  · intro hpos
    rw [emits (by omega), hpos, halfOf_even, State.emitHalf, hpos]
  · intro hpos
    rw [emits (by omega), hpos, halfOf_odd, State.emitHalf, hpos]

/-! ## Every command answers -/

/-- What a command of opcode `op` answers: its fault's mark and nothing else, one result, or an accepted transmission
(R13, R150). -/
def Answers (op : Opcode) (s : State) (o : Step) : Prop :=
  ∃ t, o = .next t ∧
    ((∃ f d, t = s.raiseFault f d op) ∨
     (∃ r, t.results = s.results ++ [r] ∧ t.caller = .ready ∧ t.fault = s.fault ∧ t.refused = s.refused) ∨
     (∃ x, t.txState = .busy ∧ t.caller = .waiting 0 x ∧ t.results = s.results ∧ t.fault = s.fault ∧
        t.refused = s.refused))

theorem answers_raiseFault (op : Opcode) (s : State) (f : FaultName) (d : Option BuildError) :
    Answers op s (.next (s.raiseFault f d op)) :=
  ⟨_, rfl, .inl ⟨f, d, rfl⟩⟩

/-- A command answers where it returns after writes `u` that leave the results and the marks alone. -/
theorem answers_finish (op : Opcode) {s u : State} (r : Result) (hres : u.results = s.results) (hf : u.fault = s.fault)
    (hr : u.refused = s.refused) : Answers op s (.next (u.finish r)) :=
  ⟨_, rfl, .inr (.inl ⟨r, by simp [hres], rfl, hf, hr⟩)⟩

theorem answers_conclude (op : Opcode) (x : Sender) (q : List Word) (s : State) :
    Answers op s (conclude op (accept x 0 q s) s) := by
  obtain ⟨f, h⟩ | ⟨e, h⟩ | ⟨conf, -, -, -, -, -, -, h⟩ := conclude_accept_cases (x := x) (j := 0) (q := q) (op := op) (s := s)
  · exact h ▸ answers_raiseFault op s f none
  · exact h ▸ answers_finish op (.txErr e) rfl rfl rfl
  · exact h ▸ ⟨_, rfl, .inr (.inr ⟨x, rfl, rfl, rfl, rfl, rfl⟩)⟩

theorem answers_sendColor (op : Opcode) (x : Sender) (c : ColorValue) (s : State) :
    Answers op s (sendColor op x 0 c s) := by
  unfold sendColor
  split
  · exact answers_raiseFault ..
  · exact answers_conclude ..

theorem answers_execConfigure (idle : Level) (carrier : Bool) (div : Byte) (s : State) :
    Answers .configure s (execConfigure idle carrier div s) := by
  unfold execConfigure
  split
  · exact answers_raiseFault ..
  · exact answers_finish _ _ rfl rfl rfl

theorem answers_execAssignPin (pin : Byte) (s : State) : Answers .assignPin s (execAssignPin pin s) := by
  unfold execAssignPin
  split
  · exact answers_raiseFault ..
  · exact answers_finish _ _ rfl rfl rfl

theorem answers_execDriverNew (t0 t1 : Word) (s : State) : Answers .driverNew s (execDriverNew t0 t1 s) := by
  unfold execDriverNew
  split
  · exact answers_raiseFault ..
  split
  · exact answers_raiseFault ..
  split
  · exact answers_raiseFault ..
  split
  · exact answers_raiseFault ..
  · exact answers_finish _ _ rfl rfl rfl

theorem answers_execSendMany (colors : List ColorValue) (s : State) : Answers .sendMany s (execSendMany colors s) := by
  unfold execSendMany
  split
  · exact answers_raiseFault ..
  split
  · exact answers_finish _ _ rfl rfl rfl
  · exact answers_sendColor ..

/-- Settles O48, one case per command. -/
theorem everyCommandAnswers : Obligations.EveryCommandAnswers := by
  intro i s
  change Answers i.opcode s (exec i s)
  cases i with
  | configure idle carrier div => exact answers_execConfigure idle carrier div s
  | assignPin pin => exact answers_execAssignPin pin s
  | deriveTicks ns hz => exact answers_finish _ _ rfl rfl rfl
  | buildTable t0h t0l t1h t1l hz => exact answers_finish _ _ rfl rfl rfl
  | encodeColor w t0 t1 => exact answers_finish _ _ rfl rfl rfl
  | pack c => exact answers_finish _ _ rfl rfl rfl
  | sendPulseSequence mode seq => cases mode; exact answers_conclude _ _ _ s
  | driverNew t0 t1 => exact answers_execDriverNew t0 t1 s
  | sendOne c => exact answers_sendColor _ _ c s
  | sendMany colors => exact answers_execSendMany colors s

/-! ## Who writes the waveform -/

/-- A transmission was accepted between the two states: its gap is at the end of the waveform (R141). -/
def GapAppended (s t : State) : Prop :=
  ∃ conf g, s.chConf = some conf ∧ s.txState ≠ .busy ∧ t.txState = .busy ∧ t.wave = s.wave ++ [.gap conf.idleLevel g]

/-- Handing over a sequence appends to the waveform only where it is accepted. -/
theorem Sent.wave_eq_or_gapAppended {x : Sender} {j : Nat} {s t : State} (h : Sent x j s t) :
    t.wave = s.wave ∨ GapAppended s t := by
  cases h with
  | fault f d op h => exact .inl (h ▸ rfl)
  | result r h => exact .inl (h ▸ rfl)
  | accepted conf q hc hn hz h => subst h; exact .inr ⟨conf, _, hc.configured, hc.notBusy, rfl, rfl⟩

/-- A command appends to the waveform only where it has a transmission accepted. -/
theorem Executed.wave_eq_or_gapAppended {i : Instr} {s t : State} (h : Executed i s t) :
    t.wave = s.wave ∨ GapAppended s t := by
  cases h with
  | fault f d op h => exact .inl (h ▸ rfl)
  | result r h => exact .inl (h ▸ rfl)
  | configured idle carrier div hi hb h => exact .inl (h ▸ rfl)
  | pinned pin hi hb h => exact .inl (h ▸ rfl)
  | bound t0 t1 conf hb hc hp hw h => exact .inl (h ▸ rfl)
  | sent x hx h => exact h.wave_eq_or_gapAppended

/-- Settles O50, by the ways a step can go: only an accepted sequence and an emission write the waveform. -/
theorem waveformWriters : Obligations.WaveformWriters := by
  intro s t hstep hne
  cases step_cases hstep with
  | refused hs r hp hd h => exact absurd (h ▸ rfl) hne
  | issued hs i rest hd h => exact .inl (h.wave_eq_or_gapAppended.resolve_left hne)
  | goesOn hf hr j colors hc hj hx h => exact absurd (h ▸ rfl) hne
  | delivered hf hr j x r hc hx h => exact absurd (h ▸ rfl) hne
  | nextColor hf hr j colors hc hi hx hj h => exact .inl (h.wave_eq_or_gapAppended.resolve_left hne)
  | transmitted hc hb h =>
    obtain ⟨plan, -, ⟨-, -, v, conf, -, hconf, rfl⟩ | ⟨-, ⟨-, rfl⟩ | ⟨conf, r, -, rfl⟩⟩⟩ := transmitterStep_next h
    · exact .inr ⟨conf, _, _, hconf, hb, rfl, rfl⟩
    · exact absurd rfl hne
    · exact absurd rfl hne
  | rested hc hb hf hr h => exact absurd (h ▸ rfl) hne

/-! ## The marks -/

/-- The transmitter writes neither a mark nor the caller's results and program. -/
theorem transmitterStep_frame {s t : State} (h : transmitterStep s = .next t) :
    t.fault = s.fault ∧ t.refused = s.refused ∧ t.results = s.results ∧ t.pending = s.pending := by
  obtain ⟨plan, -, ⟨-, -, v, conf, -, -, rfl⟩ | ⟨-, ⟨-, rfl⟩ | ⟨conf, r, -, rfl⟩⟩⟩ := transmitterStep_next h
  · exact ⟨rfl, rfl, rfl, rfl⟩
  · exact ⟨rfl, rfl, rfl, rfl⟩
  · exact ⟨rfl, rfl, rfl, rfl⟩

/-- A marked block at rest answers its mark and no next state (R154, R156). -/
theorem restStep_ne_next_of_marked {s t : State} (hm : s.fault.isSome || s.refused.isSome) : restStep s ≠ .next t := by
  unfold restStep
  split
  · simp
  · simp
  · next hf hr => simp [hf, hr] at hm

/-- Whatever step a marked block still takes is the transmitter's: it keeps the marks, the results and the program. -/
theorem step_frame_of_marked {s t : State} (hm : s.fault.isSome || s.refused.isSome) (h : step s = .next t) :
    t.fault = s.fault ∧ t.refused = s.refused ∧ t.results = s.results ∧ t.pending = s.pending := by
  have hc := callerStep_eq_none_of_marked hm
  by_cases hb : s.txState = .busy
  · rw [step_eq_transmitterStep hc hb] at h
    exact transmitterStep_frame h
  · rw [step_eq_restStep hc hb] at h
    exact absurd h (restStep_ne_next_of_marked hm)

/-- A run that ends marked satisfies no postcondition (R17). -/
theorem not_satisfies_of_marked {s : State} (hm : s.fault.isSome || s.refused.isSome)
    (post : List Result × List Segment → Prop) : ¬ s.Satisfies post := by
  rintro ⟨hfinal, -⟩
  simp [hfinal.noFault, hfinal.noRefusal] at hm

/-- Settles O53: a faulted caller has no step, so the step is the rest, which answers the fault, or the transmitter's. -/
theorem faultIsSticky : Obligations.FaultIsSticky := by
  refine ⟨fun _ _ _ _ => rfl, fun s r hf => ?_⟩
  have hm : s.fault.isSome || s.refused.isSome := by simp [hf]
  refine ⟨fun hb => ?_, fun t h => ?_, hf, not_satisfies_of_marked hm⟩
  · rw [step_eq_restStep (callerStep_eq_none_of_marked hm) hb]
    simp [restStep, hf]
  · obtain ⟨hfault, -, hresults, hpending⟩ := step_frame_of_marked hm h
    exact ⟨hfault.trans hf, hresults, hpending⟩

/-- Settles O54: a refused caller has no step, so the step is the rest, which answers the refusal, or the
transmitter's. -/
theorem refusalIsSticky : Obligations.RefusalIsSticky := by
  refine ⟨fun _ _ => rfl, fun s r hr hf => ?_⟩
  have hm : s.fault.isSome || s.refused.isSome := by simp [hr]
  refine ⟨fun hb => ?_, fun t h => ?_, hr, not_satisfies_of_marked hm⟩
  · rw [step_eq_restStep (callerStep_eq_none_of_marked hm) hb]
    simp [restStep, hf, hr]
  · obtain ⟨-, hrefused, hresults, hpending⟩ := step_frame_of_marked hm h
    exact ⟨hrefused.trans hr, hresults, hpending⟩

/-! ## The latch reading -/

theorem Segment.duration_nonneg (rate : Byte → Nat) (x : Segment) : 0 ≤ x.duration rate := by
  cases x with
  | timed l t div => exact div_nonneg (by positivity) (Nat.cast_nonneg _)
  | gap l g => exact Nat.cast_nonneg g

theorem trailingLow_nonneg (rate : Byte → Nat) (w : List Segment) : 0 ≤ trailingLow rate w := by
  refine List.sum_nonneg fun d hd => ?_
  obtain ⟨x, -, rfl⟩ := List.mem_map.mp hd
  exact x.duration_nonneg rate

/-- The reading of a gap at the low level in the three bands of R143, and of one at the high level. -/
theorem latchReading_bands (latchNs : Nat) (rate : Byte → Nat) (first : List Segment) (level : Level) (g : Nat) :
    (level = false → latchNs < g → latchReading latchNs rate first level g = .endOfFrame) ∧
    (level = false → (g : ℚ) + trailingLow rate first ≤ latchNs →
      latchReading latchNs rate first level g = .sameFrame) ∧
    (level = false → g ≤ latchNs → (latchNs : ℚ) < g + trailingLow rate first →
      latchReading latchNs rate first level g = .either) ∧
    (level = true → latchReading latchNs rate first level g = .noReading) := by
  refine ⟨?_, ?_, ?_, ?_⟩
  · rintro rfl hlong
    simp [latchReading, hlong]
  · rintro rfl hshort
    have hg : (g : ℚ) ≤ latchNs := (le_add_of_nonneg_right (trailingLow_nonneg rate first)).trans hshort
    have hge : ¬ latchNs < g := Nat.not_lt.mpr (Nat.cast_le.mp hg)
    simp [latchReading, hge, hshort]
  · rintro rfl hge hlong
    simp [latchReading, Nat.not_lt.mpr hge, not_le.mpr hlong]
  · rintro rfl
    rfl

/-- The low timed segments that end a transmission are all of those after its last high one. -/
theorem takeWhile_isLowTimed_append {before : List Segment} (lows : List Segment)
    (hlows : ∀ y ∈ lows, y.isLowTimed = true)
    (hbefore : before = [] ∨ ∃ pre t div, before = pre ++ [.timed true t div]) :
    (before ++ lows).reverse.takeWhile Segment.isLowTimed = lows.reverse := by
  rw [List.reverse_append, List.takeWhile_append_of_pos (by simpa using hlows)]
  obtain rfl | ⟨pre, t, div, rfl⟩ := hbefore
  · simp
  · simp [Segment.isLowTimed]

/-- Low timed segments after a high one, or alone, are what the trailing low counts, each at its divider's rate (R10). -/
theorem trailingLow_append_lows (rate : Byte → Nat) {before : List Segment} (lows : List (Nat × Byte))
    (hbefore : before = [] ∨ ∃ pre t div, before = pre ++ [.timed true t div]) :
    trailingLow rate (before ++ lows.map fun x => .timed false x.1 x.2) =
      (lows.map fun x => nanoseconds (rate x.2) x.1).sum := by
  have hlows : ∀ y ∈ lows.map fun x => Segment.timed false x.1 x.2, y.isLowTimed = true := by
    intro y hy
    obtain ⟨x, -, rfl⟩ := List.mem_map.mp hy
    rfl
  rw [trailingLow, takeWhile_isLowTimed_append _ hlows hbefore, List.map_reverse, List.sum_reverse, List.map_map]
  rfl

/-- The timed segments of a transmission are collected (R143). -/
theorem boundaryReadings_timed_append (latchNs : Nat) (rate : Byte → Nat) (started : Bool) (first rest : List Segment)
    {ys : List Segment} (hys : ∀ y ∈ ys, ∃ l t div, y = .timed l t div) :
    boundaryReadings latchNs rate started first (ys ++ rest) = boundaryReadings latchNs rate started (first ++ ys) rest := by
  induction ys generalizing first with
  | nil => simp
  | cons y ys ih =>
    obtain ⟨l, t, div, rfl⟩ := hys y List.mem_cons_self
    rw [List.cons_append, boundaryReadings, ih _ fun z hz => hys z (List.mem_cons_of_mem _ hz), List.append_assoc,
      List.singleton_append]

/-- After the transmission `x` each further transmission of `sent` gives one reading, of the boundary before it. -/
theorem boundaryReadings_transmissions (latchNs : Nat) (rate : Byte → Nat) (sent : List (Level × Nat × List Segment))
    (x : Level × Nat × List Segment) (hsent : ∀ z ∈ sent, ∀ y ∈ z.2.2, ∃ l t div, y = .timed l t div) :
    boundaryReadings latchNs rate true x.2.2 (sent.flatMap fun z => .gap z.1 z.2.1 :: z.2.2) =
      ((x :: sent).zip sent).map fun p => latchReading latchNs rate p.1.2.2 p.2.1 p.2.2.1 := by
  induction sent generalizing x with
  | nil => rfl
  | cons z sent ih =>
    obtain ⟨hz, hrest⟩ := List.forall_mem_cons.mp hsent
    rw [List.flatMap_cons, List.cons_append, boundaryReadings, if_pos rfl, boundaryReadings_timed_append _ _ _ _ _ hz,
      List.nil_append, ih z hrest, List.zip_cons_cons, List.map_cons]

/-- The readings of a waveform that is a list of transmissions, each a gap and the timed segments after it. -/
theorem latchReadings_transmissions (latchNs : Nat) (rate : Byte → Nat) (sent : List (Level × Nat × List Segment))
    (hsent : ∀ z ∈ sent, ∀ y ∈ z.2.2, ∃ l t div, y = .timed l t div) :
    latchReadings latchNs rate (sent.flatMap fun z => .gap z.1 z.2.1 :: z.2.2) =
      (sent.zip sent.tail).map fun p => latchReading latchNs rate p.1.2.2 p.2.1 p.2.2.1 := by
  cases sent with
  | nil => rfl
  | cons z sent =>
    obtain ⟨hz, hrest⟩ := List.forall_mem_cons.mp hsent
    rw [latchReadings, List.flatMap_cons, List.cons_append, boundaryReadings, if_neg Bool.false_ne_true,
      boundaryReadings_timed_append _ _ _ _ _ hz, List.nil_append, boundaryReadings_transmissions _ _ _ z hrest,
      List.tail_cons]

/-- Settles O59: the bands of one gap, the low end of a transmission, and the boundaries of a whole waveform. -/
theorem latchReadingBands : Obligations.LatchReadingBands :=
  ⟨latchReading_bands, fun rate _ lows hbefore => trailingLow_append_lows rate lows hbefore,
    latchReadings_transmissions⟩

/-! ## The physical line -/

/-- A segment put before a line adds its duration. -/
theorem sum_joinLine (l : Level) (d : ℚ) (line : List (Level × ℚ)) :
    ((joinLine l d line).map Prod.snd).sum = d + (line.map Prod.snd).sum := by
  obtain _ | ⟨⟨l', d'⟩, rest⟩ := line
  · rfl
  · rw [joinLine]
    split
    · simp [add_assoc]
    · rfl

/-- A segment put before a line without equal neighbours leaves none. -/
theorem isChain_joinLine (l : Level) (d : ℚ) {line : List (Level × ℚ)}
    (h : List.IsChain (fun a b : Level × ℚ => a.1 ≠ b.1) line) :
    List.IsChain (fun a b : Level × ℚ => a.1 ≠ b.1) (joinLine l d line) := by
  obtain _ | ⟨⟨l', d'⟩, rest⟩ := line
  · exact .singleton _
  · rw [joinLine]
    split
    · next heq =>
      subst heq
      exact List.isChain_cons.mpr (List.isChain_cons.mp h)
    · next hne => exact .cons_cons hne h

theorem sum_physicalLine (rate : Byte → Nat) (w : List Segment) :
    ((physicalLine rate w).map Prod.snd).sum = (w.map (Segment.duration rate)).sum := by
  induction w with
  | nil => rfl
  | cons x xs ih => rw [physicalLine, sum_joinLine, ih, List.map_cons, List.sum_cons]

theorem isChain_physicalLine (rate : Byte → Nat) (w : List Segment) :
    List.IsChain (fun a b : Level × ℚ => a.1 ≠ b.1) (physicalLine rate w) := by
  induction w with
  | nil => exact .nil
  | cons x xs ih => exact isChain_joinLine _ _ ih

/-- Settles O60: the durations and the neighbours of the line, by induction on the waveform. -/
theorem physicalLineMerges : Obligations.PhysicalLineMerges := by
  refine ⟨fun rate w => ⟨?_, isChain_physicalLine rate w⟩, fun _ => rfl⟩
  rw [sum_physicalLine]
  exact congrArg List.sum (List.map_congr_left fun x _ => by cases x <;> rfl)

end Sys2Proof.Machine

/-! # The state: its invariant, its logs and its buffer (10_state.md) -/

namespace Sys2Proof.Machine

/-! ## What a decoded command's operands satisfy -/

/-- A decoded command is well-formed: its values passed the decoder's refusals (R69, R70, R75, R157). -/
theorem wf_of_decode {vp : Byte → Bool} {ws rest : List Word} {i : Instr} (h : decode vp ws = .ok i rest) :
    i.wf vp = true := by
  obtain ⟨w0, us, op, -, -, -, hv, hn, -, rfl, -⟩ := decode_ok_inv h
  cases op with
  | configure => simpa [Opcode.valueRefusal, Opcode.command, Instr.wf] using hv
  | assignPin => simpa [Opcode.valueRefusal, Opcode.command, Instr.wf] using hv
  | sendPulseSequence =>
    have hne : field 8 8 w0 ≠ 0 := by
      intro h0
      simp only [Opcode.valueRefusal, h0, if_true] at hv
      split at hv <;> cases hv
    have hpos : (field 8 8 w0).toNat ≠ 0 := fun h0 => hne (BitVec.eq_of_toNat_eq h0)
    have hlt := (field 8 8 w0).isLt
    simp only [Opcode.operandWords] at hn
    simp only [Opcode.command, Opcode.operandWords, Instr.wf, List.length_take, Bool.and_eq_true, decide_eq_true_eq]
    omega
  | sendMany =>
    have hlt := (field 0 16 w0).isLt
    simp only [Opcode.command, Opcode.operandWords, Instr.wf, List.length_map, List.length_take, decide_eq_true_eq]
    omega
  | deriveTicks => rfl
  | buildTable => rfl
  | encodeColor => rfl
  | pack => rfl
  | driverNew => rfl
  | sendOne => rfl

/-! ## The invariant after reset and after each write of the state -/

/-- Settles O42: nothing is set, the caller is Ready and the channel Idle. -/
theorem resetMeetsInvariant : Obligations.ResetMeetsInvariant where
  memoryForm := ChMem.wf_reset
  memoryWithin := rfl
  dividerLegal := nofun
  bound := nofun
  lengthFits := Nat.zero_le _
  positionFits := Nat.le_refl _
  busy := nofun
  hung := nofun
  idle := fun _ => rfl
  ready := fun _ => ⟨rfl, rfl⟩
  sender := nofun
  between := nofun
  oneMark := .inl rfl
  markedIdle := fun _ => rfl

/-- The resting pin of a configured channel with a pin. -/
theorem State.restingPin_of_configured {s : State} {conf : ChConf} (hc : s.chConf = some conf)
    (hp : s.pinAssigned = true) : s.restingPin = .driven conf.idleLevel := by
  simp [State.restingPin, hc, hp]

theorem State.restingPin_of_not_configured {s : State} (hc : s.chConf = none) : s.restingPin = .undriven := by
  simp [State.restingPin, hc]

theorem State.restingPin_of_no_pin {s : State} (hp : s.pinAssigned = false) : s.restingPin = .undriven := by
  unfold State.restingPin
  split
  · rfl
  · simp [hp]

/-- CONFIGURE leaves a resting pin at rest (R126). -/
theorem State.setConf_resting {s : State} (h : s.pinOut = s.restingPin) (c : ChConf) :
    (s.setConf c).pinOut = (s.setConf c).restingPin := by
  cases hp : s.pinAssigned with
  | false =>
    rw [State.restingPin_of_no_pin (s := s.setConf c) hp, State.setConf_pinOut, hp, h]
    exact State.restingPin_of_no_pin hp
  | true =>
    rw [State.restingPin_of_configured (s := s.setConf c) rfl hp, State.setConf_pinOut, hp]
    rfl

/-- ASSIGN_PIN leaves a resting pin at rest (R128). -/
theorem State.setPin_resting {s : State} (h : s.pinOut = s.restingPin) (p : Byte) :
    (s.setPin p).pinOut = (s.setPin p).restingPin := by
  cases hc : s.chConf with
  | none =>
    rw [State.restingPin_of_not_configured (s := s.setPin p) hc, State.setPin_pinOut, hc, h]
    exact State.restingPin_of_not_configured hc
  | some conf =>
    rw [State.restingPin_of_configured (s := s.setPin p) hc rfl, State.setPin_pinOut, hc]

/-- After the copy of a sequence to the start of the buffer its entry `k` stands at index `k`. -/
theorem ChMem.read_copied (q : List Word) (m : List (Nat × Word)) {k : Nat} (hk : k < q.length) :
    ChMem.read (ChMem.writeFrom 0 q m) k = q[k]? := by
  simpa using ChMem.read_writeFrom_inside q m (i := 0) hk

/-- Each symbol that an accepted sequence transmits stands in the buffer with two lengths that are not zero (R130). -/
theorem accepted_symbol (m : List (Nat × Word)) {q : List Word} {i : Nat}
    (hz : ∀ v ∈ q.take (firstTerminator q), isHalfZero v = false) (hi : i < firstTerminator q) :
    ∃ v, ChMem.read (ChMem.writeFrom 0 q m) i = some v ∧ BothLengths v := by
  have hlt : i < q.length := hi.trans_le (firstTerminator_le q)
  have hget : q[i]? = some q[i] := List.getElem?_eq_getElem hlt
  have hmem : q[i] ∈ q.take (firstTerminator q) := List.mem_take_iff_getElem.mpr ⟨i, by omega, rfl⟩
  exact ⟨q[i], (ChMem.read_copied q m hlt).trans hget, lengths_ne_zero (not_isTerminator_of_lt hi hget) (hz _ hmem)⟩

namespace State.Inv

variable {s : State}

/-- A result not yet taken is of a channel that is Idle again. -/
theorem idle_of_result (h : s.Inv) {r : TxOutcome} (hx : s.txResult = some r) : s.txState = .idle := by
  cases hs : s.txState with
  | idle => rfl
  | busy => simp [(h.busy hs).noResult] at hx
  | hung => obtain ⟨-, hnone, -⟩ := h.hung hs; simp [hnone] at hx

theorem issue (h : s.Inv) (rest : List Word) (hi : s.txState = .idle) : (s.issue rest).Inv :=
  { h with
    busy := fun hbusy => by simp [hi] at hbusy }

theorem refuse (h : s.Inv) (hi : s.txState = .idle) (hf : s.fault = none) (r : RefusalReason) : (s.refuse r).Inv :=
  { h with
    busy := fun hbusy => by simp [hi] at hbusy
    oneMark := .inl hf
    markedIdle := fun _ => hi }

theorem raiseFault (h : s.Inv) (hi : s.txState = .idle) (hr : s.refused = none) (f : FaultName) (d : Option BuildError)
    (op : Opcode) : (s.raiseFault f d op).Inv :=
  { h with
    busy := fun hbusy => by simp [hi] at hbusy
    oneMark := .inr hr
    markedIdle := fun _ => hi }

/-- A command returns, the result of its transmission taken where there was one. -/
theorem takeResult_finish (h : s.Inv) (hi : s.txState = .idle) (r : Result) : (s.takeResult.finish r).Inv :=
  { h with
    busy := fun hbusy => by simp [hi] at hbusy
    hung := fun hhung => by simp [hi] at hhung
    ready := fun _ => ⟨hi, rfl⟩
    sender := nofun
    between := nofun }

theorem finish (h : s.Inv) (hi : s.txState = .idle) (hx : s.txResult = none) (r : Result) : (s.finish r).Inv := by
  have htake : s.takeResult = s := by rw [State.takeResult, ← hx]
  exact htake ▸ h.takeResult_finish hi r

/-- A SEND_MANY takes an `Ok` and waits at its next colour (R116). -/
theorem takeResult_waitFor (h : s.Inv) (hi : s.txState = .idle) {j : Nat} {colors : List ColorValue}
    (hj : j < colors.length) (hb : s.drvBound = true) : (s.takeResult.waitFor j (.sendMany colors)).Inv :=
  { h with
    busy := fun hbusy => by simp [hi] at hbusy
    hung := fun hhung => by simp [hi] at hhung
    ready := nofun
    sender := by
      intro k x hc
      obtain ⟨rfl, rfl⟩ : j = k ∧ Sender.sendMany colors = x := by simpa using hc
      exact ⟨hj, hb⟩
    between := by
      intro k x hc _ _
      obtain ⟨-, rfl⟩ : j = k ∧ Sender.sendMany colors = x := by simpa using hc
      exact ⟨colors, rfl⟩ }

/-- CONFIGURE before the binding, by its legal divider (R126). -/
theorem setConf (h : s.Inv) (hi : s.txState = .idle) (hb : s.drvTable = none) {c : ChConf} (hdiv : c.clockDiv ≠ 0#8) :
    (s.setConf c).Inv :=
  { h with
    dividerLegal := by simpa using hdiv
    bound := by simp [hb]
    busy := fun hbusy => by simp [hi] at hbusy
    hung := fun hhung => by simp [hi] at hhung
    idle := fun _ => State.setConf_resting (h.idle hi) c }

/-- ASSIGN_PIN before the binding (R128). -/
theorem setPin (h : s.Inv) (hi : s.txState = .idle) (hb : s.drvTable = none) (p : Byte) : (s.setPin p).Inv :=
  { h with
    bound := by simp [hb]
    busy := fun hbusy => by simp [hi] at hbusy
    hung := fun hhung => by simp [hi] at hhung
    idle := fun _ => State.setPin_resting (h.idle hi) p }

/-- DRIVER_NEW, by the checks its table passed (R112). -/
theorem bindDriver (h : s.Inv) (hi : s.txState = .idle) {t0 t1 : Word} {conf : ChConf} (hc : s.chConf = some conf)
    (hp : s.pinAssigned = true)
    (hw : wfError Config.periodTolNs (Config.tickHz conf.clockDiv) (symOf t0) (symOf t1) = none) (hr : s.caller = .ready) :
    (s.bindDriver t0 t1).Inv :=
  { h with
    bound := by
      rintro _ ⟨⟩
      exact ⟨conf, hc, hp, hw⟩
    busy := fun hbusy => by simp [hi] at hbusy
    sender := fun j x hwait => by simp [hr] at hwait }

/-- The acceptance of a transmission by an Idle channel without a mark (R130). -/
theorem startTransmission (h : s.Inv) (hi : s.txState = .idle) (hf : s.fault = none) (hr : s.refused = none)
    {conf : ChConf} (hc : s.Accepts conf) {q : List Word} (hn : q.length ≤ Config.chanCap)
    (hz : ∀ v ∈ q.take (firstTerminator q), isHalfZero v = false) {j : Nat} {x : Sender} (hx : s.SenderFits j x) :
    (s.startTransmission conf.idleLevel x j q (firstTerminator q)).Inv where
  memoryForm := ChMem.wf_writeFrom 0 q h.memoryForm
  memoryWithin := ChMem.within_writeFrom q h.memoryWithin (by omega)
  dividerLegal := h.dividerLegal
  bound := h.bound
  lengthFits := (firstTerminator_le q).trans hn
  positionFits := Nat.zero_le _
  busy := fun _ =>
    { callerWaits := ⟨j, x, rfl⟩
      noResult := rfl
      configured := ⟨conf, hc.configured, hc.carrierOff⟩
      pinAssigned := hc.pinAssigned
      planned := ⟨_, rfl, planOf_bounded _, Nat.zero_le _⟩
      symbols := fun i hlt => accepted_symbol s.chMem hz hlt
      pinDriven := ⟨conf.idleLevel, (h.idle hi).trans (State.restingPin_of_configured hc.configured hc.pinAssigned)⟩ }
  hung := nofun
  idle := nofun
  ready := nofun
  sender := by
    rintro _ _ ⟨⟩
    exact hx
  between := nofun
  oneMark := h.oneMark
  markedIdle := fun hm => by simp [hf, hr] at hm

/-- A half-symbol leaves, the plan's stop not yet reached (R135). -/
theorem emitHalf (h : s.Inv) (hb : s.txState = .busy) {plan : Plan} (hp : s.txPlan = some plan)
    (hlt : s.txPos < plan.stop s.txLen) (l : Level) (n : Nat) (d : Byte) : (s.emitHalf l n d).Inv := by
  have ht := h.busy hb
  obtain ⟨plan', hp', hbound, -⟩ := ht.planned
  obtain rfl : plan = plan' := Option.some.inj (hp.symm.trans hp')
  exact
    { h with
      positionFits := Nat.le_trans hlt hbound
      busy := fun _ => { ht with planned := ⟨plan, hp, hbound, hlt⟩, pinDriven := ⟨l, rfl⟩ }
      hung := fun hhung => by simp [hb] at hhung
      idle := fun hidle => by simp [hb] at hidle }

/-- A transmission ends with a result: the pin rests at the idle level (R137, R139). -/
theorem endTransmission (h : s.Inv) (hb : s.txState = .busy) {conf : ChConf} (hc : s.chConf = some conf) (r : TxOutcome) :
    (s.endTransmission conf.idleLevel r).Inv := by
  obtain ⟨j, x, hcaller⟩ := (h.busy hb).callerWaits
  exact
    { h with
      busy := nofun
      hung := nofun
      idle := fun _ =>
        (State.restingPin_of_configured (s := s.endTransmission conf.idleLevel r) hc (h.busy hb).pinAssigned).symm
      ready := fun hready => by simp [hcaller] at hready
      between := nofun
      markedIdle := fun _ => rfl }

/-- A hang: the caller waits for ever (R138). -/
theorem hang (h : s.Inv) (hb : s.txState = .busy) : s.hang.Inv := by
  have ht := h.busy hb
  obtain ⟨j, x, hcaller⟩ := ht.callerWaits
  exact
    { h with
      busy := nofun
      hung := fun _ => ⟨ht.callerWaits, ht.noResult, rfl⟩
      idle := nofun
      ready := fun hready => by simp [hcaller] at hready
      between := nofun
      markedIdle := fun hm => by simp [h.markedIdle hm] at hb }

/-! ## The invariant along a step -/

/-- Handing over a sequence keeps the invariant of an Idle, unmarked block. -/
theorem sent (h : s.Inv) (hi : s.txState = .idle) (hx : s.txResult = none) (hf : s.fault = none) (hr : s.refused = none)
    {x : Sender} {j : Nat} {t : State} (hfits : s.SenderFits j x) (ht : Sent x j s t) : t.Inv := by
  cases ht with
  | fault f d op h' => exact h' ▸ h.raiseFault hi hr f d op
  | result r h' => exact h' ▸ h.finish hi hx r
  | accepted conf q hc hn hz h' => exact h' ▸ h.startTransmission hi hf hr hc hn hz hfits

/-- A well-formed command keeps the invariant where the caller issues it. -/
theorem executed (h : s.Inv) (hs : s.Issuing) {i : Instr} (hwf : i.wellFormed = true) {t : State} (ht : Executed i s t) :
    t.Inv := by
  obtain ⟨hi, hx⟩ := h.ready hs.callerReady
  cases ht with
  | fault f d op h' => exact h' ▸ h.raiseFault hi hs.noRefusal f d op
  | result r h' => exact h' ▸ h.finish hi hx r
  | configured idle carrier div hi' hb h' =>
    subst hi'
    have hdiv : div ≠ 0#8 := by simpa [Instr.wellFormed, Instr.wf] using hwf
    exact h' ▸ (h.setConf hi hb hdiv).finish hi hx _
  | pinned pin hi' hb h' => exact h' ▸ (h.setPin hi hb pin).finish hi hx _
  | bound t0 t1 conf hb hc hp hw h' => exact h' ▸ (h.bindDriver hi hc hp hw hs.callerReady).finish hi hx _
  | sent x hfits h' => exact h.sent hi hx hs.noFault hs.noRefusal hfits h'

/-- The transmitter keeps the invariant. -/
theorem transmitted (h : s.Inv) (hb : s.txState = .busy) {t : State} (ht : transmitterStep s = .next t) : t.Inv := by
  obtain ⟨plan, hp, ⟨hlt, -, v, conf, -, -, rfl⟩ | ⟨-, ⟨-, rfl⟩ | ⟨conf, r, hc, rfl⟩⟩⟩ := transmitterStep_next ht
  · exact h.emitHalf hb hp hlt _ _ _
  · exact h.hang hb
  · exact h.endTransmission hb hc r

end State.Inv

/-- Settles O43, by the ways a step can go: the caller writes where the channel is Idle, the transmitter where it is Busy. -/
theorem stepKeepsInvariant : Obligations.StepKeepsInvariant := by
  intro s t hinv hstep
  cases step_cases hstep with
  | refused hs r hp hd h => exact h ▸ hinv.refuse (hinv.ready hs.callerReady).1 hs.noFault r
  | issued hs i rest hd h =>
    have hidle := (hinv.ready hs.callerReady).1
    exact (hinv.issue rest hidle).executed ⟨hs.callerReady, hs.noFault, hs.noRefusal⟩ (wf_of_decode hd) h
  | goesOn hf hr j colors hc hj hx h =>
    obtain ⟨-, hb⟩ := hinv.sender j _ hc
    exact h ▸ hinv.takeResult_waitFor (hinv.idle_of_result hx) hj hb
  | delivered hf hr j x r hc hx h => exact h ▸ hinv.takeResult_finish (hinv.idle_of_result hx) _
  | nextColor hf hr j colors hc hi hx hj h => exact hinv.sent hi hx hf hr (hinv.sender j _ hc) h
  | transmitted hc hb h => exact hinv.transmitted hb h
  | rested hc hb hf hr h => exact h ▸ hinv

/-! ## Where the block stops -/

theorem next_of_conclude (op : Opcode) (x : Sender) (j : Nat) (q : List Word) (s : State) :
    ∃ t, conclude op (accept x j q s) s = .next t := by
  cases accept x j q s with
  | fault f => exact ⟨_, rfl⟩
  | err e => exact ⟨_, rfl⟩
  | accepted t => exact ⟨t, rfl⟩

theorem next_of_sendColor (op : Opcode) (x : Sender) (j : Nat) (c : ColorValue) (s : State) :
    ∃ t, sendColor op x j c s = .next t := by
  unfold sendColor
  split
  · exact ⟨_, rfl⟩
  · exact next_of_conclude ..

theorem next_of_issueStep (s : State) : ∃ t, issueStep s = .next t := by
  unfold issueStep
  split
  · exact ⟨_, rfl⟩
  · next i rest _ =>
    obtain ⟨t, ht, -⟩ := everyCommandAnswers i (s.issue rest)
    exact ⟨t, ht⟩

theorem next_of_completionStep (j : Nat) (x : Sender) (r : TxOutcome) (s : State) :
    ∃ t, completionStep j x r s = .next t := by
  unfold completionStep
  split
  · split
    · exact ⟨_, rfl⟩
    · exact ⟨_, rfl⟩
  · exact ⟨_, rfl⟩

/-- The caller's step, where it has one, answers a next state: it marks a fault or a refusal and does not stop (log 3). -/
theorem next_of_callerStep {s : State} {o : Step} (h : callerStep s = some o) : ∃ t, o = .next t := by
  unfold callerStep at h
  split at h
  · cases h
  split at h
  · split at h
    · cases h
    · cases h
      exact next_of_issueStep s
  · unfold waitingStep at h
    split at h
    · cases h
      exact next_of_completionStep ..
    · split at h
      · obtain ⟨c, -, rfl⟩ := Option.map_eq_some_iff.mp h
        exact next_of_sendColor ..
      · cases h

/-- A transmission in flight never lacks a value to read (R41, R46). -/
theorem State.Transmitting.next {s : State} (h : s.Transmitting) : ∃ t, transmitterStep s = .next t := by
  obtain ⟨plan, hp, hbound, -⟩ := h.planned
  obtain ⟨conf, hc, -⟩ := h.configured
  by_cases hlt : s.txPos < plan.stop s.txLen
  · have hl : s.txPos / 2 < s.txLen := by
      unfold Plan.Bounded at hbound
      omega
    obtain ⟨v, hv, -⟩ := h.symbols _ hl
    exact ⟨_, transmitterStep_emits hp hlt hl hv hc⟩
  · cases plan with
    | complete => exact ⟨_, by simp only [transmitterStep, hp, hlt, endStep, hc]; rfl⟩
    | fail e k => exact ⟨_, by simp only [transmitterStep, hp, hlt, endStep, hc]; rfl⟩
    | hang k => exact ⟨_, by simp only [transmitterStep, hp, hlt]; rfl⟩

/-- Under the invariant a step is one to a next state, or the answer of a block at rest. -/
theorem State.Inv.step_next_or_rest {s : State} (h : s.Inv) : (∃ t, step s = .next t) ∨ step s = restStep s := by
  cases hc : callerStep s with
  | some o =>
    obtain ⟨t, rfl⟩ := next_of_callerStep hc
    exact .inl ⟨t, by simp only [step, agentStep, hc]⟩
  | none =>
    by_cases hb : s.txState = .busy
    · exact .inl (step_eq_transmitterStep hc hb ▸ (h.busy hb).next)
    · exact .inr (step_eq_restStep hc hb)

/-- A block at rest stops with its fault mark only. -/
theorem restStep_fault {s : State} {f : Fault} (h : restStep s = .fault f) : ∃ r, s.fault = some r ∧ f = .raised r := by
  unfold restStep at h
  split at h
  · next r hf => cases h; exact ⟨_, hf, rfl⟩
  · cases h
  · cases h

/-- A block at rest refuses by its refusal mark only. -/
theorem restStep_refused {s : State} {f : Refusal} (h : restStep s = .refused f) :
    ∃ r, s.refused = some r ∧ f = .noCommand r := by
  unfold restStep at h
  split at h
  · cases h
  · next r _ hr => cases h; exact ⟨r, hr, rfl⟩
  · cases h

/-- Settles O45: a step that is no next state is the answer of a block at rest. -/
theorem stopsOnlyWhereMarked : Obligations.StopsOnlyWhereMarked := by
  intro s hinv
  obtain ⟨t, hnext⟩ | hrest := hinv.step_next_or_rest
  · rw [hnext]
    exact ⟨nofun, nofun⟩
  · rw [hrest]
    exact ⟨fun _ => restStep_fault, fun _ => restStep_refused⟩

/-! ## The pin -/

/-- Handing over a sequence leaves the pin alone. -/
theorem Sent.chPin_eq {x : Sender} {j : Nat} {s t : State} (h : Sent x j s t) : t.chPin = s.chPin := by
  cases h with
  | fault f d op h => exact h ▸ rfl
  | result r h => exact h ▸ rfl
  | accepted conf q hc hn hz h => exact h ▸ rfl

/-- The transmitter writes neither the pin nor the buffer. -/
theorem transmitterStep_keeps_channel {s t : State} (h : transmitterStep s = .next t) :
    t.chPin = s.chPin ∧ t.chMem = s.chMem := by
  obtain ⟨plan, -, ⟨-, -, v, conf, -, -, rfl⟩ | ⟨-, ⟨-, rfl⟩ | ⟨conf, r, -, rfl⟩⟩⟩ := transmitterStep_next h
  · exact ⟨rfl, rfl⟩
  · exact ⟨rfl, rfl⟩
  · exact ⟨rfl, rfl⟩

/-- A command leaves the pin alone or is the ASSIGN_PIN that names it. -/
theorem Executed.chPin_eq_or_assigned {i : Instr} {s t : State} (h : Executed i s t) :
    t.chPin = s.chPin ∨ ∃ pin, i = .assignPin pin ∧ t.chPin = some pin := by
  cases h with
  | fault f d op h => exact .inl (h ▸ rfl)
  | result r h => exact .inl (h ▸ rfl)
  | configured idle carrier div hi hb h => exact .inl (h ▸ rfl)
  | pinned pin hi hb h => exact .inr ⟨pin, hi, h ▸ rfl⟩
  | bound t0 t1 conf hb hc hp hw h => exact .inl (h ▸ rfl)
  | sent x hx h => exact .inl h.chPin_eq

/-- Settles O44: only an ASSIGN_PIN writes the pin, and the decoder passed its pin. -/
theorem stepKeepsPinLegal : Obligations.StepKeepsPinLegal := by
  intro s t hlegal hstep
  have keeps : t.chPin = s.chPin → t.PinLegal := fun heq pin hpin => hlegal pin (heq ▸ hpin)
  cases step_cases hstep with
  | refused hs r hp hd h => exact keeps (h ▸ rfl)
  | issued hs i rest hd h =>
    obtain heq | ⟨pin, rfl, hpin⟩ := h.chPin_eq_or_assigned
    · exact keeps heq
    · have hvalid : Config.validPin pin = true := wf_of_decode hd
      intro p hp
      rwa [← Option.some.inj (hpin.symm.trans hp)]
  | goesOn hf hr j colors hc hj hx h => exact keeps (h ▸ rfl)
  | delivered hf hr j x r hc hx h => exact keeps (h ▸ rfl)
  | nextColor hf hr j colors hc hi hx hj h => exact keeps h.chPin_eq
  | transmitted hc hb h => exact keeps (transmitterStep_keeps_channel h).1
  | rested hc hb hf hr h => exact keeps (h ▸ rfl)

/-! ## The logs and the buffer -/

/-- What a step of either agent keeps of the results and of CH_MEM: results are only appended (R34), and the buffer is
written only where the channel becomes Busy (R54). -/
structure KeepsLogAndBuffer (s t : State) : Prop where
  results : s.results <+: t.results
  buffer : t.chMem ≠ s.chMem → s.txState ≠ .busy ∧ t.txState = .busy

/-- A write that leaves the results and the buffer alone. -/
theorem KeepsLogAndBuffer.of_eq {s t : State} (hr : t.results = s.results) (hm : t.chMem = s.chMem) :
    KeepsLogAndBuffer s t :=
  ⟨hr ▸ List.prefix_rfl, absurd hm⟩

/-- A command's return after writes `u` that leave the results and the buffer alone. -/
theorem KeepsLogAndBuffer.of_finish {s u : State} {r : Result} (hr : u.results = s.results) (hm : u.chMem = s.chMem) :
    KeepsLogAndBuffer s (u.finish r) :=
  ⟨by simp [hr], absurd hm⟩

theorem Sent.keepsLogAndBuffer {x : Sender} {j : Nat} {s t : State} (h : Sent x j s t) : KeepsLogAndBuffer s t := by
  cases h with
  | fault f d op h => exact h ▸ .of_eq rfl rfl
  | result r h => exact h ▸ .of_finish rfl rfl
  | accepted conf q hc hn hz h => exact h ▸ ⟨List.prefix_rfl, fun _ => ⟨hc.notBusy, rfl⟩⟩

theorem Executed.keepsLogAndBuffer {i : Instr} {s t : State} (h : Executed i s t) : KeepsLogAndBuffer s t := by
  cases h with
  | fault f d op h => exact h ▸ .of_eq rfl rfl
  | result r h => exact h ▸ .of_finish rfl rfl
  | configured idle carrier div hi hb h => exact h ▸ .of_finish rfl rfl
  | pinned pin hi hb h => exact h ▸ .of_finish rfl rfl
  | bound t0 t1 conf hb hc hp hw h => exact h ▸ .of_finish rfl rfl
  | sent x hx h => exact h.keepsLogAndBuffer

theorem step_keepsLogAndBuffer {s t : State} (hstep : step s = .next t) : KeepsLogAndBuffer s t := by
  cases step_cases hstep with
  | refused hs r hp hd h => exact h ▸ .of_eq rfl rfl
  | issued hs i rest hd h =>
    obtain ⟨hresults, hbuffer⟩ := h.keepsLogAndBuffer
    exact ⟨hresults, hbuffer⟩
  | goesOn hf hr j colors hc hj hx h => exact h ▸ .of_eq rfl rfl
  | delivered hf hr j x r hc hx h => exact h ▸ .of_finish rfl rfl
  | nextColor hf hr j colors hc hi hx hj h => exact h.keepsLogAndBuffer
  | transmitted hc hb h =>
    obtain ⟨-, -, hresults, -⟩ := transmitterStep_frame h
    obtain ⟨-, hmem⟩ := transmitterStep_keeps_channel h
    exact .of_eq hresults hmem
  | rested hc hb hf hr h => exact h ▸ .of_eq rfl rfl

/-- What a step writes to the waveform it appends, by the statement on its writers (R33). -/
theorem step_wave_prefix {s t : State} (hstep : step s = .next t) : s.wave <+: t.wave := by
  by_cases heq : t.wave = s.wave
  · exact heq ▸ List.prefix_rfl
  · obtain ⟨conf, g, -, -, -, hwave⟩ | ⟨conf, l, n, -, -, -, hwave⟩ := waveformWriters s t hstep heq
    · exact hwave ▸ List.prefix_append ..
    · exact hwave ▸ List.prefix_append ..

/-- Settles O49, the waveform by its writers (O50) and the results by the ways a step can go. -/
theorem logsOnlyGrow : Obligations.LogsOnlyGrow := fun _ _ hstep =>
  ⟨step_wave_prefix hstep, (step_keepsLogAndBuffer hstep).results⟩

/-- Settles O51, by the ways a step can go. -/
theorem bufferWriters : Obligations.BufferWriters := fun _ _ hstep => (step_keepsLogAndBuffer hstep).buffer

/-! ## An accepted sequence in the buffer -/

/-- What an accepted sequence leaves (R54, R130): its symbols at the start of the buffer, every other word, the channel, the
driver, the results, the marks and the program as they were. -/
def Buffered (q : List Word) (s t : State) : Prop :=
  (∀ i, i < q.length → ChMem.read t.chMem i = q[i]?) ∧
  (∀ a, q.length ≤ a → ChMem.read t.chMem a = ChMem.read s.chMem a) ∧
  t.chConf = s.chConf ∧ t.chPin = s.chPin ∧ t.drvTable = s.drvTable ∧ t.pinOut = s.pinOut ∧ t.results = s.results ∧
  t.fault = s.fault ∧ t.refused = s.refused ∧ t.issued = s.issued ∧ t.pending = s.pending

theorem buffered_startTransmission (idle : Level) (x : Sender) (j : Nat) (q : List Word) (m : Nat) (s : State) :
    Buffered q s (s.startTransmission idle x j q m) :=
  ⟨fun _ hi => ChMem.read_copied q s.chMem hi,
    fun _ ha => ChMem.read_writeFrom_outside q s.chMem (.inr (by omega)), rfl, rfl, rfl, rfl, rfl, rfl, rfl, rfl, rfl⟩

/-- A send command after which the channel has become Busy was accepted: a fault and an error leave `tx_state`. -/
theorem buffered_of_conclude {op : Opcode} {x : Sender} {j : Nat} {q : List Word} {s t : State}
    (h : conclude op (accept x j q s) s = .next t) (hb : s.txState ≠ .busy) (ht : t.txState = .busy) : Buffered q s t := by
  obtain ⟨f, hf⟩ | ⟨e, he⟩ | ⟨conf, -, -, -, -, -, -, ha⟩ :=
    conclude_accept_cases (x := x) (j := j) (q := q) (op := op) (s := s)
  · cases hf.symm.trans h
    exact absurd ht hb
  · cases he.symm.trans h
    exact absurd ht hb
  · cases ha.symm.trans h
    exact buffered_startTransmission ..

/-- Settles O27: the step is the acceptance of the command's own symbols. -/
theorem acceptedSequenceInBuffer : Obligations.AcceptedSequenceInBuffer := fun _ _ _ h hb ht =>
  buffered_of_conclude h hb ht

/-- A SEND_ONE, and a SEND_MANY at its first colour, hand the bound table's encoding of the colour to the channel
(R114, R116). -/
theorem exec_sendOne_of_bound (c : ColorValue) {s : State} {t0 t1 : Word} (hbound : s.drvTable = some (t0, t1)) :
    exec (.sendOne c) s =
      conclude .sendOne (accept .sendOne 0 (encodeSequence (packColor Config.channelOrder c) t0 t1) s) s := by
  simp only [exec, execSendOne, sendColor, hbound]

theorem exec_sendMany_of_bound (c : ColorValue) (others : List ColorValue) {s : State} {t0 t1 : Word}
    (hbound : s.drvTable = some (t0, t1)) :
    exec (.sendMany (c :: others)) s = conclude .sendMany
      (accept (.sendMany (c :: others)) 0 (encodeSequence (packColor Config.channelOrder c) t0 t1) s) s := by
  simp [exec, execSendMany, State.drvBound, sendManyColor, sendColor, hbound]

/-- Settles O32: both commands hand the encoded colour, of 24 symbols, to the channel. -/
theorem acceptedColorInBuffer : Obligations.AcceptedColorInBuffer := by
  intro c others i t0 t1 s t hi hbound hexec hb ht
  have hbuf : Buffered (encodeSequence (packColor Config.channelOrder c) t0 t1) s t := by
    obtain rfl | rfl := hi
    · exact buffered_of_conclude ((exec_sendOne_of_bound c hbound).symm.trans hexec) hb ht
    · exact buffered_of_conclude ((exec_sendMany_of_bound c others hbound).symm.trans hexec) hb ht
  simpa only [Buffered, encodeSequence_length] using hbuf

/-! ## The commands that read no state, and reset -/

/-- A Ready caller's command that returns writes its result and nothing else. -/
theorem State.finish_of_ready {s : State} (hc : s.caller = .ready) (r : Result) :
    s.finish r = { s with results := s.results ++ [r] } := by
  rw [State.finish, ← hc]

/-- Settles O28: each of the four commands only returns a result. -/
theorem pureCommandsWriteResultsOnly : Obligations.PureCommandsWriteResultsOnly := by
  intro i s t hc hi hexec
  obtain ⟨r, hr⟩ : ∃ r, exec i s = .next (s.finish r) := by
    obtain ⟨ns, hz, rfl⟩ | ⟨t0h, t0l, t1h, t1l, hz, rfl⟩ | ⟨c, rfl⟩ | ⟨w, t0, t1, rfl⟩ := hi
    · exact ⟨_, rfl⟩
    · exact ⟨_, rfl⟩
    · exact ⟨_, rfl⟩
    · exact ⟨_, rfl⟩
  rw [State.finish_of_ready hc] at hr
  cases hr.symm.trans hexec
  exact ⟨rfl, ⟨r, rfl⟩, fun _ => rfl⟩

/-- Settles O57, element by element of R42's table. -/
theorem resetLeavesSpecValues : Obligations.ResetLeavesSpecValues :=
  ⟨rfl, rfl, rfl, rfl, rfl, fun _ => rfl, rfl, rfl, rfl, rfl, rfl, rfl, rfl, rfl, rfl, rfl, rfl, rfl⟩

end Sys2Proof.Machine

/-! # Words as bytes, transmissions, the binding and the issuing of commands (20_memory.md) -/

namespace Sys2Proof

/-! ## Words as bytes -/

/-- A field of a word, by its place value. -/
theorem field_eq_ofNat (lo len : Nat) (w : Word) : field lo len w = BitVec.ofNat len (w.toNat / 2 ^ lo) := by
  rw [field, ← Nat.shiftRight_eq_div_pow]
  rfl

/-- Two neighbouring fields, the higher first, are one field. -/
theorem field_append_field (lo m n : Nat) (w : Word) : field (lo + n) m w ++ field lo n w = field lo (m + n) w :=
  BitVec.extractLsb'_append_extractLsb'_eq_extractLsb' rfl

/-- The four bytes of a word, the most significant first, are the word. -/
theorem bytes_append (w : Word) : field 24 8 w ++ field 16 8 w ++ field 8 8 w ++ field 0 8 w = w := by
  rw [field_append_field 16 8 8, field_append_field 8 16 8, field_append_field 0 24 8]
  exact BitVec.extractLsb'_eq_self

/-- The bytes of a first word read back as that word, and the bytes after them as before. -/
theorem wordsOfBytes_bytesOfWord_append (w : Word) (bs : List Byte) :
    wordsOfBytes (bytesOfWord w ++ bs) = w :: wordsOfBytes bs :=
  congrArg (· :: wordsOfBytes bs) (bytes_append w)

theorem wordsOfBytes_bytesOfWords (ws : List Word) : wordsOfBytes (bytesOfWords ws) = ws := by
  induction ws with
  | nil => rfl
  | cons w ws ih =>
    calc wordsOfBytes (bytesOfWords (w :: ws))
        = w :: wordsOfBytes (bytesOfWords ws) := wordsOfBytes_bytesOfWord_append w _
      _ = w :: ws := by rw [ih]

/-- Settles O9: a byte is a field at its place value, and the words read back by induction on their list. -/
theorem commandBytesLeastFirst : Obligations.CommandBytesLeastFirst := by
  refine ⟨fun w => ?_, wordsOfBytes_bytesOfWords⟩
  simp [bytesOfWords, bytesOfWord, field_eq_ofNat]

end Sys2Proof

namespace Sys2Proof.Machine

/-! ## A transmission and its plan -/

/-- How a transmission ends under a plan: completed, failed or hung (R137, R138, R139). -/
def State.endAsPlanned (idle : Level) (s : State) : Plan → State
  | .complete => s.endTransmission idle .ok
  | .fail e _ => s.endTransmission idle (.err e)
  | .hang _ => s.hang

/-- At the plan's stop the transmitter ends the transmission as the plan says. -/
theorem transmitterStep_ends {s : State} {plan : Plan} {conf : ChConf} (hp : s.txPlan = some plan)
    (hge : plan.stop s.txLen ≤ s.txPos) (hc : s.chConf = some conf) :
    transmitterStep s = .next (s.endAsPlanned conf.idleLevel plan) := by
  have hnlt := Nat.not_lt.mpr hge
  cases plan with
  | complete => simp only [transmitterStep, hp, hnlt, if_false, endStep, hc, State.endAsPlanned]
  | fail e k => simp only [transmitterStep, hp, hnlt, if_false, endStep, hc, State.endAsPlanned]
  | hang k => simp only [transmitterStep, hp, hnlt, if_false, State.endAsPlanned]

/-- The sequence `q` is in flight under `plan` with the settings `conf`, its symbols in the buffer. -/
structure State.Sending (q : List Word) (plan : Plan) (conf : ChConf) (s : State) : Prop where
  callerWaits : ∃ j x, s.caller = .waiting j x
  noResult : s.txResult = none
  busy : s.txState = .busy
  configured : s.chConf = some conf
  planned : s.txPlan = some plan
  bounded : plan.Bounded s.txLen
  length : s.txLen = q.length
  symbols : ∀ i, i < q.length → ChMem.read s.chMem i = q[i]?

/-- Entry `p` of a sequence's half-symbols is half `p` of word `p / 2` (R135, R144). -/
theorem getElem?_flatMap_halvesOf (div : Byte) (q : List Word) (p : Nat) :
    (q.flatMap (halvesOf div))[p]? =
      q[p / 2]?.map fun v => .timed (halfOf p (symOf v)).1 (halfOf p (symOf v)).2 div := by
  induction q generalizing p with
  | nil => rfl
  | cons v q ih =>
    match p with
    | 0 => rfl
    | 1 => rfl
    | p + 2 =>
      have hhalf : halfOf (p + 2) = halfOf p := by
        funext y
        simp [halfOf]
      have hdiv : (p + 2) / 2 = p / 2 + 1 := by omega
      rw [hhalf, hdiv]
      exact ih p

namespace State.Sending

variable {q : List Word} {plan : Plan} {conf : ChConf} {s : State}

/-- While a sequence is in flight the step is the transmitter's. -/
theorem step_eq (h : s.Sending q plan conf) : step s = transmitterStep s := by
  obtain ⟨j, x, hcaller⟩ := h.callerWaits
  exact step_eq_transmitterStep (callerStep_eq_none_of_busy hcaller h.noResult h.busy) h.busy

/-- An emission leaves the sequence in flight. -/
theorem emitHalf (h : s.Sending q plan conf) (l : Level) (n : Nat) (div : Byte) :
    (s.emitHalf l n div).Sending q plan conf :=
  { h with }

/-- Before the plan's stop the step emits the next half-symbol of the sequence. -/
theorem step_emits (h : s.Sending q plan conf) (hlt : s.txPos < plan.stop s.txLen) :
    ∃ l n, (q.flatMap (halvesOf conf.clockDiv))[s.txPos]? = some (.timed l n conf.clockDiv) ∧
      step s = .next (s.emitHalf l n conf.clockDiv) := by
  have hword : s.txPos / 2 < q.length := by
    have hbound := h.bounded
    have hlen := h.length
    unfold Plan.Bounded at hbound
    omega
  have hq := List.getElem?_eq_getElem hword
  refine ⟨_, _, by rw [getElem?_flatMap_halvesOf, hq]; rfl, ?_⟩
  rw [h.step_eq]
  exact transmitterStep_emits h.planned hlt (h.length ▸ hword) ((h.symbols _ hword).trans hq) h.configured

/-- The rest of a transmission, by induction on the half-symbols left before the plan's stop. -/
theorem run {left : Nat} (h : s.Sending q plan conf) (hleft : s.txPos + left = plan.stop s.txLen) :
    Host.Core.run Sys2Proof.core (left + 1) s = .next (State.endAsPlanned conf.idleLevel { s with
      wave := s.wave ++ ((q.flatMap (halvesOf conf.clockDiv)).drop s.txPos).take left
      txPos := plan.stop s.txLen } plan) := by
  induction left generalizing s with
  | zero =>
    have hend : step s = .next (s.endAsPlanned conf.idleLevel plan) :=
      h.step_eq.trans (transmitterStep_ends h.planned (by omega) h.configured)
    rw [run_of_step Sys2Proof.core hend, ← hleft, List.take_zero, List.append_nil]
    rfl
  | succ left ih =>
    obtain ⟨l, n, hhalf, hstep⟩ := h.step_emits (by omega)
    obtain ⟨hpos, hget⟩ := List.getElem?_eq_some_iff.mp hhalf
    rw [run_of_step Sys2Proof.core hstep, ih (h.emitHalf l n _) (by rw [State.emitHalf_txPos, State.emitHalf_txLen]; omega),
      List.drop_eq_getElem_cons hpos, hget, List.take_succ_cons, List.append_cons]
    rfl

end State.Sending

/-- Settles O39: the whole transmission is what is left of it at position 0. -/
theorem transmissionFollowsPlan : Obligations.TransmissionFollowsPlan := by
  intro q plan conf j x s hcaller hr hb hc hp hbound hpos hlen hmem
  have hsending : s.Sending q plan conf := ⟨⟨j, x, hcaller⟩, hr, hb, hc, hp, hbound, hlen, hmem⟩
  rw [hsending.run (by rw [hpos, Nat.zero_add]), hpos, List.drop_zero]
  cases plan with
  | complete => rfl
  | fail e k => rfl
  | hang k => rw [← hr]; rfl

/-! ## The binding -/

/-- The driver's table, the channel's settings and its pin are as before (R57, R123). -/
structure KeepsBinding (s t : State) : Prop where
  drvTable : t.drvTable = s.drvTable
  chConf : t.chConf = s.chConf
  chPin : t.chPin = s.chPin

/-- Handing over a sequence leaves the binding alone. -/
theorem Sent.keepsBinding {x : Sender} {j : Nat} {s t : State} (h : Sent x j s t) : KeepsBinding s t := by
  cases h with
  | fault f d op h => exact h ▸ ⟨rfl, rfl, rfl⟩
  | result r h => exact h ▸ ⟨rfl, rfl, rfl⟩
  | accepted conf q hc hn hz h => exact h ▸ ⟨rfl, rfl, rfl⟩

/-- A command that would write the binding is faulted where the driver is bound. -/
theorem Executed.keepsBinding {i : Instr} {s t : State} (h : Executed i s t) (hbound : s.drvTable ≠ none) :
    KeepsBinding s t := by
  cases h with
  | fault f d op h => exact h ▸ ⟨rfl, rfl, rfl⟩
  | result r h => exact h ▸ ⟨rfl, rfl, rfl⟩
  | configured idle carrier div hi hb h => exact absurd hb hbound
  | pinned pin hi hb h => exact absurd hb hbound
  | bound t0 t1 conf hb hc hp hw h => exact absurd hb hbound
  | sent x hx h => exact h.keepsBinding

/-- The transmitter leaves the binding alone. -/
theorem transmitterStep_keepsBinding {s t : State} (h : transmitterStep s = .next t) : KeepsBinding s t := by
  obtain ⟨plan, -, ⟨-, -, v, conf, -, -, rfl⟩ | ⟨-, ⟨-, rfl⟩ | ⟨conf, r, -, rfl⟩⟩⟩ := transmitterStep_next h
  · exact ⟨rfl, rfl, rfl⟩
  · exact ⟨rfl, rfl, rfl⟩
  · exact ⟨rfl, rfl, rfl⟩

theorem step_keepsBinding {s t : State} (hstep : step s = .next t) (hbound : s.drvTable ≠ none) : KeepsBinding s t := by
  cases step_cases hstep with
  | refused hs r hp hd h => exact h ▸ ⟨rfl, rfl, rfl⟩
  | issued hs i rest hd h =>
    obtain ⟨htable, hconf, hpin⟩ := h.keepsBinding hbound
    exact ⟨htable, hconf, hpin⟩
  | goesOn hf hr j colors hc hj hx h => exact h ▸ ⟨rfl, rfl, rfl⟩
  | delivered hf hr j x r hc hx h => exact h ▸ ⟨rfl, rfl, rfl⟩
  | nextColor hf hr j colors hc hi hx hj h => exact h.keepsBinding
  | transmitted hc hb h => exact transmitterStep_keepsBinding h
  | rested hc hb hf hr h => exact h ▸ ⟨rfl, rfl, rfl⟩

/-- Settles O52, by the ways a step can go: only the commands before the binding write what it holds. -/
theorem boundChannelIsFrozen : Obligations.BoundChannelIsFrozen := by
  intro s t hstep hbound
  obtain ⟨htable, hconf, hpin⟩ := step_keepsBinding hstep hbound
  exact ⟨htable, hconf, hpin⟩

/-! ## The issuing of a command -/

/-- An issuing caller with words left issues its next command. -/
theorem step_eq_issueStep {s : State} (hs : s.Issuing) (hp : s.pending ≠ []) : step s = issueStep s := by
  obtain ⟨hc, hf, hr⟩ := hs
  simp [step, agentStep, callerStep, hc, hf, hr, hp]

/-- The empty sequence spells no command (log 12). -/
theorem ne_nil_of_decode_ok {vp : Byte → Bool} {ws rest : List Word} {i : Instr} (h : decode vp ws = .ok i rest) :
    ws ≠ [] := by
  rintro rfl
  cases h

/-- Settles O55: words that decode are there to be issued, and the issuing step runs what they decode to. -/
theorem stepRunsDecoded : Obligations.StepRunsDecoded := by
  intro i rest s hs hd
  rw [step_eq_issueStep hs (ne_nil_of_decode_ok hd), issueStep, hd]
  rfl

end Sys2Proof.Machine

/-! # The command words and the symbol words (30_encoding.md) -/

namespace Sys2Proof

/-! ## Fields -/

/-- The value of a field of a word. -/
theorem field_toNat (lo len : Nat) (w : Word) : (field lo len w).toNat = w.toNat / 2 ^ lo % 2 ^ len := by
  rw [field_eq_ofNat, BitVec.toNat_ofNat]

theorem field_eq_zero_iff (lo len : Nat) (w : Word) : field lo len w = 0 ↔ w.toNat / 2 ^ lo % 2 ^ len = 0 := by
  rw [← field_toNat, ← BitVec.toNat_inj]
  rfl

theorem opcodeField_toNat (w0 : Word) : (opcodeField w0).toNat = w0.toNat / 2 ^ 24 := by
  have hlt := w0.isLt
  rw [opcodeField, field_toNat]
  omega

/-- A field of one bit is that bit. -/
theorem ofBool_getLsbD (k : Nat) (w : Word) : BitVec.ofBool (w.getLsbD k) = field k 1 w := by
  refine BitVec.eq_of_getLsbD_eq fun i hi => ?_
  obtain rfl : i = 0 := by omega
  simp [field]

theorem fieldsZero_iff (fs : List (Nat × Nat)) (w : Word) : fieldsZero fs w = true ↔ ∀ f ∈ fs, field f.1 f.2 w = 0 := by
  simp [fieldsZero]

/-! ## Opcodes -/

theorem code_of_ofCode {c : Byte} {op : Opcode} (h : Opcode.ofCode c = some op) : c = op.code := by
  unfold Opcode.ofCode at h
  split at h <;> cases h <;> exact BitVec.eq_of_toNat_eq ‹_›

/-- R79: the numbers that name no command. -/
theorem ofCode_eq_none_iff (c : Byte) : Opcode.ofCode c = none ↔ c.toNat = 0 ∨ 0x0B ≤ c.toNat := by
  unfold Opcode.ofCode
  split <;> grind

/-- Word 0 is its opcode's number and its immediate (R66). -/
theorem word0_field {op : Opcode} {w0 : Word} (h : Opcode.ofCode (opcodeField w0) = some op) :
    word0 op (field 0 24 w0) = w0 := by
  rw [word0, ← code_of_ofCode h, opcodeField, field_append_field 0 8 24]
  exact BitVec.extractLsb'_eq_self

/-! ## The refusals, one per check of the decoder (R157) -/

variable {vp : Byte → Bool} {op : Opcode} {w0 : Word} {ws : List Word}

theorem decode_of_ofCode_none (ho : Opcode.ofCode (opcodeField w0) = none) :
    decode vp (w0 :: ws) = .refused .reservedOpcode := by
  simp only [decode, ho]

theorem decode_of_reserved (ho : Opcode.ofCode (opcodeField w0) = some op) (hr : fieldsZero op.reservedFields w0 = false) :
    decode vp (w0 :: ws) = .refused .reservedField := by
  simp [decode, ho, hr]

theorem decode_of_valueRefusal {r : RefusalReason} (ho : Opcode.ofCode (opcodeField w0) = some op)
    (hr : fieldsZero op.reservedFields w0 = true) (hv : op.valueRefusal vp w0 = some r) :
    decode vp (w0 :: ws) = .refused r := by
  simp only [decode, ho, hr, hv, if_true]

theorem decode_of_short (ho : Opcode.ofCode (opcodeField w0) = some op) (hr : fieldsZero op.reservedFields w0 = true)
    (hv : op.valueRefusal vp w0 = none) (hn : ws.length < op.operandWords w0) :
    decode vp (w0 :: ws) = .refused .truncated := by
  simp only [decode, ho, hr, hv, if_true, hn]

theorem decode_of_operandReserved (ho : Opcode.ofCode (opcodeField w0) = some op)
    (hr : fieldsZero op.reservedFields w0 = true) (hv : op.valueRefusal vp w0 = none)
    (hn : op.operandWords w0 ≤ ws.length)
    (ha : (ws.take (op.operandWords w0)).all (fieldsZero op.operandReserved) = false) :
    decode vp (w0 :: ws) = .refused .reservedField := by
  simp [decode, ho, hr, hv, Nat.not_lt.mpr hn, ha]

/-! ## The words the decoder takes -/

/-- Every check of the decoder passes on word 0 `w0` of opcode `op` and exactly the operand words `ws` (R67, R157). -/
structure Opcode.Takes (vp : Byte → Bool) (op : Opcode) (w0 : Word) (ws : List Word) : Prop where
  opcode : Opcode.ofCode (opcodeField w0) = some op
  reserved : fieldsZero op.reservedFields w0 = true
  value : op.valueRefusal vp w0 = none
  count : ws.length = op.operandWords w0
  operands : ws.all (fieldsZero op.operandReserved) = true

/-- Words the decoder takes give their command and leave what follows. -/
theorem Opcode.Takes.decode (h : op.Takes vp w0 ws) (rest : List Word) :
    decode vp (w0 :: (ws ++ rest)) = .ok (op.command w0 ws) rest := by
  obtain ⟨ho, hr, hv, hn, ha⟩ := h
  have htake : (ws ++ rest).take (op.operandWords w0) = ws := List.take_left' hn
  have hdrop : (ws ++ rest).drop (op.operandWords w0) = rest := List.drop_left' hn
  rw [decode_ok ho hr hv (by simp [← hn]) (by rw [htake, ha]), htake, hdrop]

/-- Words that decode start with words the decoder takes. -/
theorem takes_of_decode {us rest : List Word} {i : Instr} (h : decode vp us = .ok i rest) :
    ∃ (op : Opcode) (w0 : Word) (ws : List Word), us = w0 :: (ws ++ rest) ∧ op.Takes vp w0 ws ∧ i = op.command w0 ws := by
  obtain ⟨w0, us, op, rfl, ho, hr, hv, hn, ha, rfl, rfl⟩ := decode_ok_inv h
  exact ⟨op, w0, us.take (op.operandWords w0), by rw [List.take_append_drop],
    ⟨ho, hr, hv, List.length_take_of_le hn, ha⟩, rfl⟩

/-! ## The fields of the immediates -/

theorem append_inj {m n : Nat} {x x' : BitVec m} {y y' : BitVec n} (h : x ++ y = x' ++ y') : x = x' ∧ y = y' := by
  have hlow := congrArg (BitVec.extractLsb' 0 n) h
  have hhigh := congrArg (BitVec.extractLsb' n m) h
  simp only [extract_low, extract_high, Nat.zero_add, Nat.le_refl, Nat.sub_self, BitVec.extractLsb'_eq_self] at hlow hhigh
  exact ⟨hhigh, hlow⟩

theorem immediate_word0 (op : Opcode) (imm : BitVec 24) : field 0 24 (word0 op imm) = imm :=
  (field_word0 op imm (by decide)).trans BitVec.extractLsb'_eq_self

/-- The immediate of a CONFIGURE, field by field (R69). -/
theorem configure_immediate (w : Word) :
    field 16 8 w ++ field 8 8 w ++ field 2 6 w ++ field 1 1 w ++ field 0 1 w = field 0 24 w := by
  rw [field_append_field 8 8 8, field_append_field 2 16 6, field_append_field 1 22 1, field_append_field 0 23 1]

/-- The immediate of a SEND_PULSE_SEQUENCE, field by field (R75). -/
theorem sendPulseSequence_immediate (w : Word) :
    field 16 8 w ++ field 8 8 w ++ field 1 7 w ++ field 0 1 w = field 0 24 w := by
  rw [field_append_field 8 8 8, field_append_field 1 16 7, field_append_field 0 23 1]

/-- The immediate of an ASSIGN_PIN (R70). -/
theorem assignPin_immediate (w : Word) : field 8 16 w ++ field 0 8 w = field 0 24 w := field_append_field 0 16 8 w

/-- The immediate of a SEND_MANY (R78). -/
theorem sendMany_immediate (w : Word) : field 16 8 w ++ field 0 16 w = field 0 24 w := field_append_field 0 8 16 w

/-- The three bytes of a colour in a word (R65). -/
theorem colorBits_colorOfWord (w : Word) : colorBits (colorOfWord w) = field 0 24 w := by
  simp only [colorBits, colorOfWord]
  rw [field_append_field 8 8 8, field_append_field 0 16 8]

/-- A colour word whose reserved field is zero is its colour's (R78). -/
theorem operand_colorOfWord {v : Word} (h : field 24 8 v = 0) : 0#8 ++ colorBits (colorOfWord v) = v := by
  rw [colorBits_colorOfWord, show 0#8 = field 24 8 v from h.symm, field_append_field 0 8 24]
  exact BitVec.extractLsb'_eq_self

/-! ## The encoder's words are taken (R69 to R78) -/

/-- The encoder writes as many words as word 0 says, for every command (R67). -/
theorem commandLength (i : Instr) : Laws.CommandLength.Statement i := by
  cases i with
  | configure idle carrier div => exact Laws.CommandLength.configure idle carrier div
  | assignPin pin => exact Laws.CommandLength.assignPin pin
  | deriveTicks ns hz => exact Laws.CommandLength.deriveTicks ns hz
  | buildTable t0h t0l t1h t1l hz => exact Laws.CommandLength.buildTable t0h t0l t1h t1l hz
  | encodeColor color t0 t1 => exact Laws.CommandLength.encodeColor color t0 t1
  | pack c => exact Laws.CommandLength.pack c
  | sendPulseSequence mode seq => exact Laws.CommandLength.sendPulseSequence mode seq
  | driverNew t0 t1 => exact Laws.CommandLength.driverNew t0 t1
  | sendOne c => exact Laws.CommandLength.sendOne c
  | sendMany cs => exact Laws.CommandLength.sendMany cs

/-- The words of a well-formed command whose word 0 is assembled pass the checks of the opcode and of the count. -/
theorem takes_word0 {i : Instr} {imm : BitVec 24} (hi : i.wf vp = true) (he : encode i = word0 op imm :: ws)
    (hr : fieldsZero op.reservedFields (word0 op imm) = true) (hv : op.valueRefusal vp (word0 op imm) = none)
    (ha : ws.all (fieldsZero op.operandReserved) = true) : op.Takes vp (word0 op imm) ws where
  opcode := by rw [opcodeField_word0, Opcode.ofCode_code]
  reserved := hr
  value := hv
  count := by
    obtain ⟨w0, us, hw, hlen⟩ := commandLength i vp hi
    obtain ⟨rfl, rfl⟩ := List.cons_eq_cons.mp (he.symm.trans hw)
    rw [hw, commandWords_word0, List.length_cons] at hlen
    omega
  operands := ha

theorem takes_encode {i : Instr} (h : i.wf vp = true) :
    ∃ (op : Opcode) (w0 : Word) (ws : List Word), encode i = w0 :: ws ∧ op.Takes vp w0 ws ∧ op.command w0 ws = i := by
  cases i with
  | configure idle carrier div =>
    have hdiv : div ≠ 0#8 := by simpa [Instr.wf] using h
    obtain ⟨himm, hi⟩ := append_inj ((configure_immediate _).trans (immediate_word0 .configure
      (0#8 ++ div ++ 0#6 ++ BitVec.ofBool carrier ++ BitVec.ofBool idle)))
    obtain ⟨himm, hc⟩ := append_inj himm
    obtain ⟨himm, hmid⟩ := append_inj himm
    obtain ⟨hhigh, hd⟩ := append_inj himm
    refine ⟨_, _, _, rfl, takes_word0 h rfl ?_ ?_ rfl, ?_⟩
    · simp [Opcode.reservedFields, fieldsZero, hhigh, hmid]
    · simp [Opcode.valueRefusal, hd, hdiv]
    · rw [← ofBool_getLsbD, BitVec.ofBool_eq_iff_eq] at hc hi
      rw [Opcode.command, hi, hc, hd]
  | assignPin pin =>
    have hpin : vp pin = true := h
    obtain ⟨hhigh, hp⟩ := append_inj ((assignPin_immediate _).trans (immediate_word0 .assignPin (0#16 ++ pin)))
    refine ⟨_, _, _, rfl, takes_word0 h rfl ?_ ?_ rfl, ?_⟩
    · simp [Opcode.reservedFields, fieldsZero, hhigh]
    · simp [Opcode.valueRefusal, hp, hpin]
    · rw [Opcode.command, hp]
  | deriveTicks ns hz => exact ⟨_, _, _, rfl, takes_word0 h rfl rfl rfl rfl, rfl⟩
  | buildTable t0h t0l t1h t1l hz => exact ⟨_, _, _, rfl, takes_word0 h rfl rfl rfl rfl, rfl⟩
  | encodeColor color t0 t1 =>
    refine ⟨_, _, _, rfl, takes_word0 h rfl rfl rfl rfl, ?_⟩
    simp [Opcode.command, field_word0]
  | pack c => exact ⟨_, _, _, rfl, takes_word0 h rfl rfl rfl rfl, congrArg Instr.pack (colorOfWord_word0 .pack c)⟩
  | sendPulseSequence mode seq =>
    cases mode
    have hlen : 1 ≤ seq.length ∧ seq.length ≤ 255 := by simpa [Instr.wf] using h
    have hne : BitVec.ofNat 8 seq.length ≠ 0#8 := by bv_omega
    obtain ⟨himm, hmode⟩ := append_inj ((sendPulseSequence_immediate _).trans (immediate_word0 .sendPulseSequence
      (0#8 ++ BitVec.ofNat 8 seq.length ++ 0#7 ++ 0#1)))
    obtain ⟨himm, hlow⟩ := append_inj himm
    obtain ⟨hhigh, hn⟩ := append_inj himm
    refine ⟨_, _, _, rfl, takes_word0 h rfl ?_ ?_ ?_, rfl⟩
    · simp [Opcode.reservedFields, fieldsZero, hhigh, hlow]
    · simp [Opcode.valueRefusal, hmode, hn, hne]
    · simp [Opcode.operandReserved, fieldsZero]
  | driverNew t0 t1 => exact ⟨_, _, _, rfl, takes_word0 h rfl rfl rfl rfl, rfl⟩
  | sendOne c => exact ⟨_, _, _, rfl, takes_word0 h rfl rfl rfl rfl, congrArg Instr.sendOne (colorOfWord_word0 .sendOne c)⟩
  | sendMany cs =>
    obtain ⟨hhigh, -⟩ := append_inj ((sendMany_immediate _).trans (immediate_word0 .sendMany
      (0#8 ++ BitVec.ofNat 16 cs.length)))
    refine ⟨_, _, _, rfl, takes_word0 h rfl ?_ rfl ?_, ?_⟩
    · simp [Opcode.reservedFields, fieldsZero, hhigh]
    · simp [Opcode.operandReserved, fieldsZero, reserved_operand]
    · simp [Opcode.command, colorOfWord_operand, Function.comp_def]

/-- Settles O2: the encoder's words pass the decoder's checks, and give their command back. -/
theorem decodeOfEncodeGivesCommand : Obligations.DecodeOfEncodeGivesCommand := by
  intro vp i rest hi
  obtain ⟨op, w0, ws, he, htakes, rfl⟩ := takes_encode hi
  rw [he, List.cons_append, htakes.decode rest]

/-! ## The words taken are the encoder's (R84) -/

theorem encode_of_immediate {i : Instr} {imm : BitVec 24} (ho : Opcode.ofCode (opcodeField w0) = some op)
    (himm : imm = field 0 24 w0) (he : encode i = word0 op imm :: ws) : encode i = w0 :: ws := by
  rw [he, himm, word0_field ho]

/-- Words the decoder takes are the words of their command. -/
theorem Opcode.Takes.encode_command (h : op.Takes vp w0 ws) : encode (op.command w0 ws) = w0 :: ws := by
  obtain ⟨ho, hr, hv, hn, ha⟩ := h
  rw [fieldsZero_iff] at hr
  cases op with
  | configure =>
    obtain rfl := List.length_eq_zero_iff.mp hn
    have hhigh : field 16 8 w0 = 0#8 := hr (16, 8) (by decide)
    have hmid : field 2 6 w0 = 0#6 := hr (2, 6) (by decide)
    refine encode_of_immediate ho ?_ rfl
    rw [← configure_immediate, hhigh, hmid, ofBool_getLsbD, ofBool_getLsbD]
  | assignPin =>
    obtain rfl := List.length_eq_zero_iff.mp hn
    have hhigh : field 8 16 w0 = 0#16 := hr (8, 16) (by decide)
    exact encode_of_immediate ho (by rw [← assignPin_immediate, hhigh]) rfl
  | deriveTicks =>
    obtain ⟨ns, hz, rfl⟩ := List.length_eq_two.mp hn
    exact encode_of_immediate ho (hr (0, 24) (by decide)).symm rfl
  | buildTable =>
    match ws, hn with
    | [t0h, t0l, t1h, t1l, hz], _ => exact encode_of_immediate ho (hr (0, 24) (by decide)).symm rfl
  | encodeColor =>
    obtain ⟨t0, t1, rfl⟩ := List.length_eq_two.mp hn
    exact encode_of_immediate ho rfl rfl
  | pack =>
    obtain rfl := List.length_eq_zero_iff.mp hn
    exact encode_of_immediate ho (colorBits_colorOfWord w0) rfl
  | sendPulseSequence =>
    have hmode : field 0 1 w0 = 0 := by
      simp only [Opcode.valueRefusal] at hv
      split at hv
      · cases hv
      · next hne => exact (BitVec.eq_zero_or_eq_one _).resolve_right hne
    have hhigh : field 16 8 w0 = 0#8 := hr (16, 8) (by decide)
    have hlow : field 1 7 w0 = 0#7 := hr (1, 7) (by decide)
    have hcount : BitVec.ofNat 8 ws.length = field 8 8 w0 := by
      rw [hn, Opcode.operandWords, BitVec.ofNat_toNat, BitVec.setWidth_eq]
    refine encode_of_immediate ho ?_ rfl
    rw [← sendPulseSequence_immediate, hhigh, hcount, hlow, hmode]
    rfl
  | driverNew =>
    obtain ⟨t0, t1, rfl⟩ := List.length_eq_two.mp hn
    exact encode_of_immediate ho (hr (0, 24) (by decide)).symm rfl
  | sendOne =>
    obtain rfl := List.length_eq_zero_iff.mp hn
    exact encode_of_immediate ho (colorBits_colorOfWord w0) rfl
  | sendMany =>
    have hcount : BitVec.ofNat 16 (ws.map colorOfWord).length = field 0 16 w0 := by
      rw [List.length_map, hn, Opcode.operandWords, BitVec.ofNat_toNat, BitVec.setWidth_eq]
    have himm : 0#8 ++ BitVec.ofNat 16 (ws.map colorOfWord).length = field 0 24 w0 := by
      rw [hcount, ← sendMany_immediate, show field 16 8 w0 = 0#8 from hr (16, 8) (by decide)]
    have hwords : ((ws.map colorOfWord).map fun c => 0#8 ++ colorBits c) = ws := by
      have hzero : ∀ v ∈ ws, field 24 8 v = 0 := by simpa [Opcode.operandReserved, fieldsZero] using ha
      calc ((ws.map colorOfWord).map fun c => 0#8 ++ colorBits c)
          = ws.map id := by
            rw [List.map_map]
            exact List.map_congr_left fun v hv => operand_colorOfWord (hzero v hv)
        _ = ws := List.map_id ws
    exact encode_of_immediate ho himm (congrArg _ hwords)

/-- Settles O3: words that decode start with words the decoder takes, which are their command's. -/
theorem decodedWordsAreEncoded : Obligations.DecodedWordsAreEncoded := by
  intro vp us rest i h
  obtain ⟨op, w0, ws, rfl, htakes, rfl⟩ := takes_of_decode h
  exact ⟨Machine.wf_of_decode h, by rw [htakes.encode_command, List.cons_append]⟩

/-! ## The examples of the rules -/

/-- Settles O1: each example is the encoder's words for its command, so O2 decodes it. -/
theorem specWordsDecode : Obligations.SpecWordsDecode := by
  intro vp rest hpin
  have decodes (i : Instr) (hi : i.wf vp = true) : decode vp (encode i ++ rest) = .ok i rest :=
    decodeOfEncodeGivesCommand vp i rest hi
  exact ⟨decodes (.configure false false 1#8) rfl, decodes (.configure true true 1#8) rfl,
    decodes (.assignPin 18#8) hpin, decodes (.deriveTicks 400#32 80000000#32) rfl,
    decodes (.buildTable 400#32 850#32 800#32 450#32 80000000#32) rfl,
    decodes (.encodeColor 0x800000#24 0x00448020#32 0x00248040#32) rfl,
    decodes (.pack ⟨0x12#8, 0x34#8, 0x56#8⟩) rfl,
    decodes (.sendPulseSequence .oneShot [0x00248040#32, 0x00448020#32]) rfl,
    decodes (.driverNew 0x00448020#32 0x00248040#32) rfl, decodes (.sendOne ⟨0x00#8, 0x80#8, 0x00#8⟩) rfl,
    decodes (.sendMany [⟨0xFF#8, 0x00#8, 0x00#8⟩, ⟨0x00#8, 0x00#8, 0xFF#8⟩]) rfl⟩

/-! ## The refused words (R79 to R81, R155) -/

theorem valueRefusal_ne_reservedOpcode : op.valueRefusal vp w0 ≠ some .reservedOpcode := by
  cases op with
  | configure => simp only [Opcode.valueRefusal]; split <;> nofun
  | assignPin => simp only [Opcode.valueRefusal]; split <;> nofun
  | sendPulseSequence =>
    simp only [Opcode.valueRefusal]
    split
    · nofun
    · split <;> nofun
  | deriveTicks => nofun
  | buildTable => nofun
  | encodeColor => nofun
  | pack => nofun
  | driverNew => nofun
  | sendOne => nofun
  | sendMany => nofun

/-- No check after the opcode's refuses for the opcode. -/
theorem decode_ne_reservedOpcode (ho : Opcode.ofCode (opcodeField w0) = some op) :
    decode vp (w0 :: ws) ≠ .refused .reservedOpcode := by
  simp only [decode, ho]
  split
  · split
    · next r hv =>
      rintro ⟨⟩
      exact valueRefusal_ne_reservedOpcode hv
    · split
      · nofun
      · split
        · nofun
        · nofun
  · nofun

theorem decode_eq_reservedOpcode_iff :
    decode vp (w0 :: ws) = .refused .reservedOpcode ↔ Opcode.ofCode (opcodeField w0) = none := by
  refine ⟨fun h => ?_, decode_of_ofCode_none⟩
  cases ho : Opcode.ofCode (opcodeField w0) with
  | none => rfl
  | some op => exact absurd h (decode_ne_reservedOpcode ho)

/-- Settles O4: the refusal is that of the opcode's number. -/
theorem reservedOpcodeRefused : Obligations.ReservedOpcodeRefused := by
  intro vp w0 ws
  rw [decode_eq_reservedOpcode_iff, ofCode_eq_none_iff, opcodeField_toNat]

theorem ofCode_of_toNat (h : w0.toNat / 2 ^ 24 = op.code.toNat) : Opcode.ofCode (opcodeField w0) = some op := by
  have hcode : opcodeField w0 = op.code := BitVec.eq_of_toNat_eq ((opcodeField_toNat w0).trans h)
  rw [hcode, Opcode.ofCode_code]

/-- One reserved field of word 0 that is not zero refuses the words (R80). -/
theorem decode_of_reserved_mem {lo len : Nat} (ho : Opcode.ofCode (opcodeField w0) = some op)
    (hmem : (lo, len) ∈ op.reservedFields) (hne : w0.toNat / 2 ^ lo % 2 ^ len ≠ 0) :
    decode vp (w0 :: ws) = .refused .reservedField := by
  refine decode_of_reserved ho (Bool.eq_false_iff.mpr fun hzero => hne ?_)
  exact (field_eq_zero_iff lo len w0).mp ((fieldsZero_iff _ _).mp hzero (lo, len) hmem)

/-- The checks of word 0 on a SEND_MANY whose reserved field is zero (R78). -/
theorem sendMany_word0_checks (h : w0.toNat / 2 ^ 16 = 0x0A00) :
    Opcode.ofCode (opcodeField w0) = some .sendMany ∧ fieldsZero Opcode.sendMany.reservedFields w0 = true ∧
      Opcode.sendMany.operandWords w0 = w0.toNat % 2 ^ 16 := by
  have hop : w0.toNat / 2 ^ 24 = 0x0A := by omega
  have hreserved : field 16 8 w0 = 0 := (field_eq_zero_iff 16 8 w0).mpr (by omega)
  refine ⟨ofCode_of_toNat hop, ?_, ?_⟩
  · simpa [Opcode.reservedFields, fieldsZero] using hreserved
  · rw [Opcode.operandWords, field_toNat, Nat.pow_zero, Nat.div_one]

/-- Settles O5: a listed field of word 0 is one of its opcode's reserved fields, and a colour word's is checked once word 0
and the length have passed. -/
theorem reservedFieldRefused : Obligations.ReservedFieldRefused := by
  constructor
  · intro vp w0 ws opcode lo len hlisted hop hne
    obtain ⟨op, hcode, hmem⟩ : ∃ op : Opcode, op.code.toNat = opcode ∧ (lo, len) ∈ op.reservedFields := by
      simp only [List.mem_cons, List.not_mem_nil, or_false, Prod.mk.injEq] at hlisted
      obtain ⟨rfl, rfl, rfl⟩ | ⟨rfl, rfl, rfl⟩ | ⟨rfl, rfl, rfl⟩ | ⟨rfl, rfl, rfl⟩ | ⟨rfl, rfl, rfl⟩ | ⟨rfl, rfl, rfl⟩ |
        ⟨rfl, rfl, rfl⟩ | ⟨rfl, rfl, rfl⟩ | ⟨rfl, rfl, rfl⟩ := hlisted
      · exact ⟨.configure, rfl, by decide⟩
      · exact ⟨.configure, rfl, by decide⟩
      · exact ⟨.assignPin, rfl, by decide⟩
      · exact ⟨.deriveTicks, rfl, by decide⟩
      · exact ⟨.buildTable, rfl, by decide⟩
      · exact ⟨.driverNew, rfl, by decide⟩
      · exact ⟨.sendPulseSequence, rfl, by decide⟩
      · exact ⟨.sendPulseSequence, rfl, by decide⟩
      · exact ⟨.sendMany, rfl, by decide⟩
    exact decode_of_reserved_mem (ofCode_of_toNat (hop.trans hcode.symm)) hmem hne
  · intro vp w0 ws v hword hlen hv hne
    obtain ⟨ho, hr, hn⟩ := sendMany_word0_checks hword
    refine decode_of_operandReserved ho hr rfl (hn ▸ hlen) (List.all_eq_false.mpr ⟨v, hn ▸ hv, fun hzero => hne ?_⟩)
    have hfield : v.toNat / 2 ^ 24 % 2 ^ 8 = 0 :=
      (field_eq_zero_iff 24 8 v).mp ((fieldsZero_iff _ v).mp hzero (24, 8) (by decide))
    have hlt := v.isLt
    omega

/-- Settles O7: the words before the missing one pass the checks of word 0, and the count is what fails. -/
theorem truncatedWordsRefused : Obligations.TruncatedWordsRefused := by
  refine ⟨fun vp op w0 ws ho hr hv hn => decode_of_short ho hr hv hn, ?_, ?_⟩
  · intro vp w0 ws hword hlen
    obtain ⟨ho, hr, hn⟩ := sendMany_word0_checks hword
    exact decode_of_short ho hr rfl (hn ▸ hlen)
  · intro vp i k hi hpos hlt
    obtain ⟨op, w0, ws, he, htakes, -⟩ := takes_encode hi
    obtain ⟨k, rfl⟩ := Nat.exists_eq_add_of_lt hpos
    rw [he, List.length_cons] at hlt
    rw [he, Nat.zero_add, List.take_succ_cons]
    refine decode_of_short htakes.opcode htakes.reserved htakes.value ?_
    rw [← htakes.count, List.length_take]
    omega

/-- An ASSIGN_PIN word, field by field (R70). -/
theorem assignPin_fields (w : Word) : field 24 8 w ++ field 8 16 w ++ field 0 8 w = w := by
  rw [field_append_field 8 8 16, field_append_field 0 24 8]
  exact BitVec.extractLsb'_eq_self

/-- Word 0 of a SEND_PULSE_SEQUENCE, field by field (R75). -/
theorem sendPulseSequence_fields (w : Word) :
    field 24 8 w ++ field 16 8 w ++ field 8 8 w ++ field 1 7 w ++ field 0 1 w = w := by
  rw [field_append_field 16 8 8, field_append_field 8 16 8, field_append_field 1 24 7, field_append_field 0 31 1]
  exact BitVec.extractLsb'_eq_self

/-- Settles O6: the value is refused where the opcode and the reserved fields have passed. -/
theorem wordZeroValuesRefused : Obligations.WordZeroValuesRefused := by
  intro vp ws
  refine ⟨fun carrier idle => ?_, fun pin hpin => ?_, fun n => ?_, ?_⟩
  · cases carrier <;> cases idle <;> exact decode_of_valueRefusal (op := .configure) rfl rfl rfl
  · generalize hw : 0x02#8 ++ 0#16 ++ pin = w0
    obtain ⟨h, hp⟩ := append_inj ((assignPin_fields w0).trans hw.symm)
    obtain ⟨hop, hreserved⟩ := append_inj h
    refine decode_of_valueRefusal (op := .assignPin) (by rw [opcodeField, hop]; rfl) ?_ ?_
    · simp [Opcode.reservedFields, fieldsZero, hreserved]
    · simp [Opcode.valueRefusal, hp, hpin]
  · generalize hw : 0x07#8 ++ 0#8 ++ n ++ 0#7 ++ 1#1 = w0
    obtain ⟨h, hmode⟩ := append_inj ((sendPulseSequence_fields w0).trans hw.symm)
    obtain ⟨h, hlow⟩ := append_inj h
    obtain ⟨h, -⟩ := append_inj h
    obtain ⟨hop, hhigh⟩ := append_inj h
    refine decode_of_valueRefusal (op := .sendPulseSequence) (by rw [opcodeField, hop]; rfl) ?_ ?_
    · simp [Opcode.reservedFields, fieldsZero, hhigh, hlow]
    · simp [Opcode.valueRefusal, hmode]
  · exact decode_of_valueRefusal (op := .sendPulseSequence) rfl rfl rfl

end Sys2Proof

namespace Sys2Proof.Machine

/-! ## Symbol words (R60, R61, R63) -/

/-- A symbol word, field by field. -/
theorem symbolWord_fields (v : Word) : field 31 1 v ++ field 16 15 v ++ field 15 1 v ++ field 0 15 v = v := by
  rw [field_append_field 16 1 15, field_append_field 15 16 1, field_append_field 0 17 15]
  exact BitVec.extractLsb'_eq_self

theorem symWord_symOf (v : Word) : symWord (symOf v) = v := by
  simp only [symWord, symOf, ofBool_getLsbD, BitVec.ofNat_toNat, BitVec.setWidth_eq]
  exact symbolWord_fields v

theorem symOf_symWord {s : PulseSymbol} (h1 : s.length1 ≤ Config.durMax) (h2 : s.length2 ≤ Config.durMax) :
    symOf (symWord s) = s := by
  obtain ⟨h, hlength1⟩ := append_inj (symbolWord_fields (symWord s))
  obtain ⟨h, hlevel1⟩ := append_inj h
  obtain ⟨hlevel2, hlength2⟩ := append_inj h
  rw [← ofBool_getLsbD, BitVec.ofBool_eq_iff_eq] at hlevel1 hlevel2
  have hlt1 : s.length1 < 2 ^ 15 := Nat.lt_succ_of_le h1
  have hlt2 : s.length2 < 2 ^ 15 := Nat.lt_succ_of_le h2
  rw [symOf, hlevel1, hlength1, hlevel2, hlength2, BitVec.toNat_ofNat, BitVec.toNat_ofNat, Nat.mod_eq_of_lt hlt1,
    Nat.mod_eq_of_lt hlt2]

/-- Settles O8: the lengths are the two 15-bit fields, and the word is its four fields. -/
theorem symbolWordLayout : Obligations.SymbolWordLayout := by
  refine ⟨fun v => ⟨?_, symWord_symOf v⟩, fun s h1 h2 => symOf_symWord h1 h2⟩
  rw [symOf, field_toNat, field_toNat, Nat.pow_zero, Nat.div_one]

theorem isTerminator_iff (v : Word) : isTerminator v = true ↔ (symOf v).length1 = 0 ∧ (symOf v).length2 = 0 := by
  simp [isTerminator]

/-- Settles O26: the three facts about the first terminator, each read as lengths. -/
theorem firstTerminatorIsFirst : Obligations.FirstTerminatorIsFirst := by
  refine fun seq => ⟨firstTerminator_le seq, fun i v hi hv => ?_, fun hlt => ?_⟩
  · rw [← isTerminator_iff, not_isTerminator_of_lt hi hv]
    exact Bool.false_ne_true
  · obtain ⟨v, hv, hterm⟩ := isTerminator_at hlt
    exact ⟨v, hv, (isTerminator_iff v).mp hterm⟩

/-! ## The table BUILD_TABLE gives (R96, R97) -/

theorem nonzeroOk_eq_false_iff (t0 t1 : PulseSymbol) : nonzeroOk t0 t1 = false ↔
    t0.length1 = 0 ∨ t0.length2 = 0 ∨ t1.length1 = 0 ∨ t1.length2 = 0 := by
  simp only [nonzeroOk, Bool.and_eq_false_iff, bne_eq_false_iff_eq, or_assoc]

theorem fitOk_eq_false_iff (t0 t1 : PulseSymbol) : fitOk t0 t1 = false ↔ Config.durMax < t0.length1 ∨
    Config.durMax < t0.length2 ∨ Config.durMax < t1.length1 ∨ Config.durMax < t1.length2 := by
  simp only [fitOk, Bool.and_eq_false_iff, decide_eq_false_iff_not, Nat.not_le, or_assoc]

theorem discrimOk_eq_false_iff (t0 t1 : PulseSymbol) : discrimOk t0 t1 = false ↔ ¬ highTicks t0 < highTicks t1 := by
  rw [discrimOk, decide_eq_false_iff_not]

theorem periodOk_eq_false_iff (tol hz : Nat) (t0 t1 : PulseSymbol) : periodOk tol hz t0 t1 = false ↔
    tol * hz < absDiff (periodTicks t1) (periodTicks t0) * 10 ^ 9 := by
  rw [periodOk, decide_eq_false_iff_not, Nat.not_le]

/-- The first failing check of two symbols that are high, then low: E_LEVELS cannot come. -/
theorem wfError_highLow (tol hz a b c d : Nat) : wfError tol hz (highLow a b) (highLow c d) =
    if a = 0 ∨ b = 0 ∨ c = 0 ∨ d = 0 then some .zeroLength
    else if Config.durMax < a ∨ Config.durMax < b ∨ Config.durMax < c ∨ Config.durMax < d then some .overflow
    else if ¬ a < c then some .discrimination
    else if tol * hz < absDiff (c + d) (a + b) * 10 ^ 9 then some .period
    else none := by
  have hlevels : levelsOk (highLow a b) (highLow c d) = true := rfl
  have hzero : nonzeroOk (highLow a b) (highLow c d) = false ↔ a = 0 ∨ b = 0 ∨ c = 0 ∨ d = 0 := nonzeroOk_eq_false_iff ..
  have hfit : fitOk (highLow a b) (highLow c d) = false ↔
      Config.durMax < a ∨ Config.durMax < b ∨ Config.durMax < c ∨ Config.durMax < d := fitOk_eq_false_iff ..
  have hdiscrim : discrimOk (highLow a b) (highLow c d) = false ↔ ¬ a < c := discrimOk_eq_false_iff ..
  have hperiod : periodOk tol hz (highLow a b) (highLow c d) = false ↔ tol * hz < absDiff (c + d) (a + b) * 10 ^ 9 :=
    periodOk_eq_false_iff ..
  simp only [wfError, hlevels, Bool.not_eq_true', Bool.true_eq_false, if_false, hzero, hfit, hdiscrim, hperiod]

/-- Settles O15: the two definitions make the same checks in the same order, and lengths that fit are read back. -/
theorem buildTableAgreesWithChecks : Obligations.BuildTableAgreesWithChecks := by
  intro tol t0h t0l t1h t1l hz t0 t1
  have herror : wfError tol hz t0 t1 = _ := wfError_highLow tol hz _ _ _ _
  rw [herror, buildTable]
  split_ifs with hzero hfit hdiscrim hperiod
  · simp
  · simp
  · simp
  · simp only [not_or, Nat.not_lt] at hfit
    obtain ⟨ha, hb, hc, hd⟩ := hfit
    exact ⟨nofun, nofun, fun _ => ⟨_, _, rfl, symOf_symWord ha hb, symOf_symWord hc hd⟩⟩
  · simp

end Sys2Proof.Machine

/-! # Tick counts, the checks of a table, and the encoder's output under a table (40_timing_table.md) -/

namespace Sys2Proof.Machine

/-! ## Tick counts (R88, R89) -/

/-- Tick counts do not fall as the clock rate rises (R89). -/
theorem ticksOf_mono (ns : Nat) : Monotone (ticksOf ns) := by
  intro hzA hzB h
  unfold ticksOf
  gcongr

/-- The tick count of two 32-bit operands is below 2^35 (R88). -/
theorem ticksOf_lt {ns hz : Nat} (hns : ns < 2 ^ 32) (hhz : hz < 2 ^ 32) : ticksOf ns hz < 2 ^ 35 := by
  have hprod : ns * hz < 2 ^ 32 * 2 ^ 32 := Nat.mul_lt_mul'' hns hhz
  rw [ticksOf, Nat.mul_assoc]
  omega

/-- Settles O10: the command only returns its result, and the operands have 32 bits. -/
theorem deriveTicksReturnsTicks : Obligations.DeriveTicksReturnsTicks :=
  fun ns hz _ hc => ⟨congrArg Host.Outcome.next (State.finish_of_ready hc _), ticksOf_lt ns.isLt hz.isLt⟩

/-- Settles O11. -/
theorem ticksMonotoneInClock : Obligations.TicksMonotoneInClock := fun ns _ _ h => ticksOf_mono ns h.le

/-! ## The five checks of a table (R90 to R96) -/

theorem levelsOk_eq_false_iff (t0 t1 : PulseSymbol) : levelsOk t0 t1 = false ↔
    ¬ (t0.level1 = true ∧ t0.level2 = false ∧ t1.level1 = true ∧ t1.level2 = false) := by
  rw [← Bool.not_eq_true, levelsOk]
  simp only [Bool.and_eq_true, Bool.not_eq_true', and_assoc]

theorem natCast_absDiff (a b : Nat) : (absDiff a b : Int) = |(a : Int) - b| := by
  rcases le_total a b with h | h
  · rw [absDiff, Nat.sub_eq_zero_of_le h, Nat.zero_add, Nat.cast_sub h, abs_sub_comm, abs_of_nonneg (by omega)]
  · rw [absDiff, Nat.sub_eq_zero_of_le h, Nat.add_zero, Nat.cast_sub h, abs_of_nonneg (by omega)]

/-- R94's check on the periods, failed, over the integers. -/
theorem lt_absDiff_mul_iff (m a b : Nat) :
    m < absDiff a b * 10 ^ 9 ↔ (m : Int) < |(a : Int) - (b : Int)| * 1000000000 := by
  rw [← natCast_absDiff]
  omega

/-- A table given as symbol words passes WF_FIT, its lengths being 15-bit fields (R93). -/
theorem fitOk_symOf (v0 v1 : Word) : fitOk (symOf v0) (symOf v1) = true := by
  have hfield : ∀ x : BitVec 15, x.toNat ≤ Config.durMax := fun x => Nat.le_of_lt_succ x.isLt
  simp only [fitOk, symOf, hfield, decide_true, Bool.and_self]

/-- The error is E_OVERFLOW only where WF_FIT fails (R93, R95). -/
theorem wfError_ne_overflow {t0 t1 : PulseSymbol} (h : fitOk t0 t1 = true) (tol hz : Nat) :
    wfError tol hz t0 t1 ≠ some .overflow := by
  rw [wfError, h, Bool.not_true, if_neg Bool.false_ne_true]
  split_ifs <;> exact nofun

/-- Settles O13: WF_FIT by the widths of the fields; then each check read as a proposition, and the chain of checks taken at its
first failure. -/
theorem firstFailedCheckIsReported : Obligations.FirstFailedCheckIsReported := by
  refine ⟨fun tol hz v0 v1 => wfError_ne_overflow (fitOk_symOf v0 v1) tol hz, ?_⟩
  intro tol hz t0 t1 levels nonzero fits discriminates periods
  have hlevels : levelsOk t0 t1 = false ↔ ¬ levels := levelsOk_eq_false_iff t0 t1
  have hnonzero : nonzeroOk t0 t1 = false ↔ ¬ nonzero := by
    rw [nonzeroOk_eq_false_iff]
    omega
  have hfits : fitOk t0 t1 = false ↔ ¬ fits := by
    rw [fitOk_eq_false_iff, Config.durMax]
    omega
  have hdiscriminates : discrimOk t0 t1 = false ↔ ¬ discriminates := discrimOk_eq_false_iff t0 t1
  have hperiods : periodOk tol hz t0 t1 = false ↔ ¬ periods := by
    rw [periodOk_eq_false_iff, lt_absDiff_mul_iff, not_le]
    rfl
  classical
  clear_value levels nonzero fits discriminates periods
  simp only [wfError, Bool.not_eq_true', hlevels, hnonzero, hfits, hdiscriminates, hperiods]
  split_ifs with hl hn hf hd hp
  · simp [hl, hn, hf, hd, hp]
  · simp [hl, hn, hf, hd, hp]
  · simp [hl, hn, hf, hd]
  · simp [hl, hn, hf]
  · simp [hl, hn]
  · simp [hl]

/-! ## BUILD_TABLE (R97) -/

/-- Settles O14: the command only returns its result, and the last check is the same over the integers. -/
theorem buildTableReturnsTable : Obligations.BuildTableReturnsTable := by
  intro t0h t0l t1h t1l hz s hc a b c d
  refine congrArg Host.Outcome.next ((State.finish_of_ready hc _).trans ?_)
  simp only [buildTable, lt_absDiff_mul_iff, gt_iff_lt]
  rfl

/-! ## The encoder's output under a table (R142, R147) -/

/-- The symbols of a well-formed table have no zero length (R91). -/
theorem bothLengths_of_wfError {tol hz : Nat} {t0 t1 : Word} (h : wfError tol hz (symOf t0) (symOf t1) = none) :
    BothLengths t0 ∧ BothLengths t1 := by
  obtain ⟨hwf, -⟩ := firstFailedCheckIsReported.2 tol hz (symOf t0) (symOf t1)
  obtain ⟨-, ⟨h01, h02, h11, h12⟩, -⟩ := hwf.mp h
  exact ⟨⟨Nat.ne_of_gt h01, Nat.ne_of_gt h02⟩, Nat.ne_of_gt h11, Nat.ne_of_gt h12⟩

theorem BothLengths.not_isTerminator {v : Word} (h : BothLengths v) : isTerminator v = false := by
  simp [isTerminator, h.1]

theorem BothLengths.not_isHalfZero {v : Word} (h : BothLengths v) : isHalfZero v = false := by
  obtain ⟨h1, h2⟩ := h
  simp [isHalfZero, h1, h2]

/-- A sequence without a terminator is sent whole. -/
theorem firstTerminator_eq_length {q : List Word} (h : ∀ v ∈ q, isTerminator v = false) : firstTerminator q = q.length := by
  refine (firstTerminator_le q).antisymm (Nat.not_lt.mp fun hlt => ?_)
  obtain ⟨v, hv, hterm⟩ := isTerminator_at hlt
  exact Bool.false_ne_true ((h v (List.mem_of_getElem? hv)).symm.trans hterm)

/-- Settles O21: every entry is one of the table's two symbols, and neither has a zero length. -/
theorem encoderMakesNoZeroLengths : Obligations.EncoderMakesNoZeroLengths := by
  intro tol hz w t0 t1 htable
  obtain ⟨h0, h1⟩ := bothLengths_of_wfError htable
  have hboth : ∀ v ∈ encodeSequence w t0 t1, BothLengths v := by
    intro v hv
    obtain rfl | rfl := mem_encodeSequence hv
    · exact h0
    · exact h1
  refine ⟨?_, fun v hv => (hboth v hv).not_isHalfZero⟩
  rw [firstTerminator_eq_length fun v hv => (hboth v hv).not_isTerminator, encodeSequence_length]

/-- The ticks of a sequence are the periods of its symbols. -/
theorem timedTicks_flatMap_halvesOf (div : Byte) (q : List Word) :
    timedTicks (q.flatMap (halvesOf div)) = (q.map fun v => periodTicks (symOf v)).sum := by
  have hhalves : ∀ v, ((halvesOf div v).map Segment.ticks).sum = periodTicks (symOf v) := fun v => by
    simp [halvesOf, Segment.ticks, periodTicks]
  rw [timedTicks, List.map_flatMap, List.flatMap, List.sum_flatten, List.map_map]
  simp only [Function.comp_def, hhalves]

/-- An encoded colour is the symbols of its bits, read from the last to the first (R102). -/
theorem encodeSequence_eq_reverse (w : ColorWord) (t0 t1 : Word) :
    encodeSequence w t0 t1 = ((List.range 24).map fun k => if w.getLsbD k then t1 else t0).reverse := by
  rw [← List.map_reverse, List.range_eq_range', List.reverse_range', List.map_map]
  rfl

/-- A sum of two values chosen by a predicate, by how often it holds. -/
theorem sum_map_cond {α : Type} (p : α → Bool) (x y : Nat) (l : List α) :
    (l.map fun k => if p k then x else y).sum = (l.length - (l.filter p).length) * y + (l.filter p).length * x := by
  induction l with
  | nil => simp
  | cons k l ih =>
    have hle : (l.filter p).length ≤ l.length := List.length_filter_le p l
    rw [List.map_cons, List.sum_cons, ih, List.length_cons]
    by_cases hk : p k = true
    · rw [if_pos hk, List.filter_cons_of_pos hk, List.length_cons, Nat.add_sub_add_right]
      ring
    · rw [if_neg hk, List.filter_cons_of_neg hk, Nat.sub_add_comm hle]
      ring

/-- Settles O41: the ticks are the periods of the symbols, summed from the last bit to the first. -/
theorem oneColorDuration : Obligations.OneColorDuration := by
  intro div w t0 t1 ones
  refine ⟨?_, List.length_filter_le _ _⟩
  rw [timedTicks_flatMap_halvesOf, encodeSequence_eq_reverse, List.map_reverse, List.sum_reverse, List.map_map]
  simpa [Function.comp_def, apply_ite] using
    sum_map_cond (fun k => w.getLsbD k) (periodTicks (symOf t1)) (periodTicks (symOf t0)) (List.range 24)

end Sys2Proof.Machine

/-! # The encoder, and one colour from the driver to the wire (41_encoder.md) -/

namespace Sys2Proof.Machine

/-! ## PACK (R100, R101) -/

/-- The colour whose bytes stand as `x`, `y`, `z` on the wire, first to last, under a wire order (R101). -/
def colorOnWire (order : ChannelOrder) (x y z : Byte) : ColorValue :=
  match order with
  | .rgb => ⟨x, y, z⟩
  | .rbg => ⟨x, z, y⟩
  | .grb => ⟨y, x, z⟩
  | .gbr => ⟨z, x, y⟩
  | .brg => ⟨y, z, x⟩
  | .bgr => ⟨z, y, x⟩

/-- PACK puts the three bytes on the wire in that order. -/
theorem packColor_colorOnWire (order : ChannelOrder) (x y z : Byte) :
    packColor order (colorOnWire order x y z) = x ++ y ++ z := by
  cases order <;> rfl

/-- A colour is the one of its own bytes in wire order. -/
theorem colorOnWire_channelByte (order : ChannelOrder) (c : ColorValue) :
    colorOnWire order (channelByte c (wireChannels order).1) (channelByte c (wireChannels order).2.1)
      (channelByte c (wireChannels order).2.2) = c := by
  cases order <;> rfl

theorem packColor_injective (order : ChannelOrder) : Function.Injective (packColor order) := by
  intro c d h
  obtain ⟨hhigh, hthird⟩ := append_inj h
  obtain ⟨hfirst, hsecond⟩ := append_inj hhigh
  rw [← colorOnWire_channelByte order c, hfirst, hsecond, hthird, colorOnWire_channelByte]

/-- The three bytes of a packed colour, the first on the wire first, are the packed colour (R62). -/
theorem packed_bytes (w : ColorWord) : w.extractLsb' 16 8 ++ w.extractLsb' 8 8 ++ w.extractLsb' 0 8 = w := by
  have hhigh : w.extractLsb' 16 8 ++ w.extractLsb' 8 8 = w.extractLsb' 8 16 :=
    BitVec.extractLsb'_append_extractLsb'_eq_extractLsb' rfl
  rw [hhigh]
  exact (BitVec.extractLsb'_append_extractLsb'_eq_extractLsb' rfl).trans BitVec.extractLsb'_eq_self

/-- Settles O17: the bytes of a packed colour determine the colour, and any three bytes are some colour's. -/
theorem packIsBijective : Obligations.PackIsBijective := fun order =>
  ⟨packColor_injective order, fun w => ⟨_, (packColor_colorOnWire order _ _ _).trans (packed_bytes w)⟩⟩

/-- Settles O16: the command only returns its result, and the packed colour is read off order by order. -/
theorem packReturnsWireOrder : Obligations.PackReturnsWireOrder := by
  intro r g b s hc
  refine congrArg Host.Outcome.next ((State.finish_of_ready hc _).trans ?_)
  generalize Config.channelOrder = order
  cases order <;> rfl

/-! ## ENCODE (R102, R104, R107) -/

/-- Settles O18: the command only returns its result, the encoded colour. -/
theorem encodeReturnsSequence : Obligations.EncodeReturnsSequence := fun w t0 t1 _ hc =>
  ⟨encodeSequence w t0 t1, congrArg Host.Outcome.next (State.finish_of_ready hc _), encodeSequence_length w t0 t1,
    fun _ hi => encodeSequence_getElem? w t0 t1 hi⟩

/-- The entries of bit 1 are as many as the 1 bits, where the two symbols differ. -/
theorem count_encodeSequence_one (w : ColorWord) {t0 t1 : Word} (hne : t0 ≠ t1) :
    (encodeSequence w t0 t1).count t1 = ((List.range 24).filter fun k => w.getLsbD k).length := by
  have hbit : ∀ k, ((if w.getLsbD k then t1 else t0) == t1) = w.getLsbD k := by
    intro k
    cases w.getLsbD k with
    | true => exact beq_self_eq_true t1
    | false => exact beq_false_of_ne hne
  rw [encodeSequence_eq_reverse, List.count_reverse, List.count, List.countP_map, ← List.countP_eq_length_filter]
  exact congrArg (List.countP · _) (funext hbit)

/-- In a list of two different words each entry is counted once. -/
theorem count_add_count_eq_length {t0 t1 : Word} (hne : t0 ≠ t1) {q : List Word} (hq : ∀ v ∈ q, v = t0 ∨ v = t1) :
    q.count t0 + q.count t1 = q.length := by
  have hother : q.count t1 = q.countP fun v => ¬ (v == t0) = true := by
    refine List.countP_congr fun v hv => ?_
    obtain rfl | rfl := hq v hv
    · simp [hne]
    · simp [hne.symm]
  rw [hother]
  exact (List.length_eq_countP_add_countP (· == t0)).symm

/-- Settles O19: the bit-1 entries are the 1 bits, and every entry is one of the two symbols. -/
theorem encodedOnesCountBits : Obligations.EncodedOnesCountBits := fun w _ _ hne =>
  ⟨count_encodeSequence_one w hne,
    (count_add_count_eq_length hne fun _ => mem_encodeSequence).trans (encodeSequence_length ..)⟩

/-- The bits of three bytes side by side, byte by byte. -/
theorem getLsbD_bytes (x y z : Byte) {k : Nat} (hk : k < 8) :
    (x ++ y ++ z).getLsbD (16 + k) = x.getLsbD k ∧ (x ++ y ++ z).getLsbD (8 + k) = y.getLsbD k ∧
      (x ++ y ++ z).getLsbD k = z.getLsbD k := by
  have hx : 16 + k - 8 - 8 = k := by omega
  refine ⟨?_, ?_, ?_⟩
  · rw [BitVec.getLsbD_append, if_neg (by omega), BitVec.getLsbD_append, if_neg (by omega), hx]
  · rw [BitVec.getLsbD_append, if_neg (by omega), Nat.add_sub_cancel_left, BitVec.getLsbD_append, if_pos hk]
  · rw [BitVec.getLsbD_append, if_pos hk]

/-- Bit `k` of the byte at place `p` of the wire order is bit `8 * (2 - p) + k` of the packed colour (R100). -/
theorem getLsbD_packColor (order : ChannelOrder) (c : ColorValue) {p k : Nat} {ch : Channel} (hk : k < 8)
    (hch : [(wireChannels order).1, (wireChannels order).2.1, (wireChannels order).2.2][p]? = some ch) :
    (packColor order c).getLsbD (8 * (2 - p) + k) = (channelByte c ch).getLsbD k := by
  obtain ⟨hfirst, hsecond, hthird⟩ := getLsbD_bytes (channelByte c (wireChannels order).1)
    (channelByte c (wireChannels order).2.1) (channelByte c (wireChannels order).2.2) hk
  match p with
  | 0 =>
    cases hch
    exact hfirst
  | 1 =>
    cases hch
    exact hsecond
  | 2 =>
    cases hch
    rw [Nat.sub_self, Nat.mul_zero, Nat.zero_add]
    exact hthird

/-- Settles O20: entry `8 * p + (7 - k)` is the symbol of bit `8 * (2 - p) + k` of the packed colour. -/
theorem colorBitPosition : Obligations.ColorBitPosition := by
  intro order c t0 t1 p k ch hk hch
  have hp : p < 3 := (List.getElem?_eq_some_iff.mp hch).1
  have hbit : 23 - (8 * p + (7 - k)) = 8 * (2 - p) + k := by omega
  rw [encodeSequence_getElem? _ _ _ (by omega), hbit, getLsbD_packColor order c hk hch]

/-! ## SEND_ONE (R114, R115, R137) -/

/-- Under a table without zero lengths every symbol of an encoded colour has two lengths. -/
theorem bothLengths_of_mem_encodeSequence {w : ColorWord} {t0 t1 v : Word} (h0 : BothLengths t0) (h1 : BothLengths t1)
    (hv : v ∈ encodeSequence w t0 t1) : BothLengths v := by
  obtain rfl | rfl := mem_encodeSequence hv
  · exact h0
  · exact h1

/-- An accepting channel takes an encoded colour whole (R115, R142). -/
theorem accept_encodeSequence (x : Sender) (j : Nat) (w : ColorWord) {t0 t1 : Word} {conf : ChConf} {s : State}
    (hacc : s.Accepts conf) (h0 : BothLengths t0) (h1 : BothLengths t1) :
    accept x j (encodeSequence w t0 t1) s =
      .accepted (s.startTransmission conf.idleLevel x j (encodeSequence w t0 t1) 24) := by
  have hboth : ∀ v ∈ encodeSequence w t0 t1, BothLengths v := fun v => bothLengths_of_mem_encodeSequence h0 h1
  have hfirst : firstTerminator (encodeSequence w t0 t1) = 24 := by
    rw [firstTerminator_eq_length fun v hv => (hboth v hv).not_isTerminator, encodeSequence_length]
  obtain ⟨hconf, hpin, hcarrier, hbusy⟩ := hacc
  rw [accept_accepted hconf hpin hcarrier hbusy (by rw [encodeSequence_length]; exact chanCap_range.1)
    fun v hv => (hboth v (List.mem_of_mem_take hv)).not_isHalfZero, hfirst]

/-- A SEND_ONE on an accepting channel starts the transmission of its packed colour (R114). -/
theorem exec_sendOne_accepted (c : ColorValue) {t0 t1 : Word} {conf : ChConf} {s : State}
    (hbound : s.drvTable = some (t0, t1)) (hacc : s.Accepts conf) (h0 : BothLengths t0) (h1 : BothLengths t1) :
    exec (.sendOne c) s = .next (s.startTransmission conf.idleLevel .sendOne 0
      (encodeSequence (packColor Config.channelOrder c) t0 t1) 24) := by
  rw [exec_sendOne_of_bound c hbound, accept_encodeSequence _ _ _ hacc h0 h1]
  rfl

/-- A started transmission whose plan is set to `Complete` is in flight under that plan. -/
theorem sending_startTransmission (x : Sender) (j : Nat) {q : List Word} {conf : ChConf} {s : State}
    (hconf : s.chConf = some conf) :
    State.Sending q .complete conf
      { s.startTransmission conf.idleLevel x j q q.length with txPlan := some .complete } where
  callerWaits := ⟨j, x, rfl⟩
  noResult := rfl
  busy := rfl
  configured := hconf
  planned := rfl
  bounded := Nat.le_refl _
  length := rfl
  symbols := fun _ hi => ChMem.read_copied q s.chMem hi

/-- Each symbol is two half-symbols. -/
theorem length_flatMap_halvesOf (div : Byte) (q : List Word) : (q.flatMap (halvesOf div)).length = 2 * q.length := by
  simp [List.length_flatMap, halvesOf, Nat.mul_comm]

/-- A waiting SEND_ONE takes the transmission's result as its own (R149). -/
theorem step_sendOne_completes {s : State} {j : Nat} {r : TxOutcome} (hf : s.fault = none) (hr : s.refused = none)
    (hc : s.caller = .waiting j .sendOne) (hx : s.txResult = some r) :
    step s = .next (s.takeResult.finish (resultOf r)) := by
  simp [step, agentStep, callerStep, waitingStep, completionStep, hf, hr, hc, hx]

/-- Settles O40: the acceptance, the 49 steps of the whole transmission, and the step that takes its result. -/
theorem sendOneEmitsColor : Obligations.SendOneEmitsColor := by
  intro c t0 t1 conf s t hf hr hbound hacc h0 h1 hexec
  cases (exec_sendOne_accepted c hbound hacc h0 h1).symm.trans hexec
  have hlen := encodeSequence_length (packColor Config.channelOrder c) t0 t1
  generalize encodeSequence (packColor Config.channelOrder c) t0 t1 = q at hlen ⊢
  have hsending := sending_startTransmission .sendOne 0 (q := q) hacc.configured
  rw [hlen] at hsending
  have hrun := hsending.run (left := 48) rfl
  have hwhole : (q.flatMap (halvesOf conf.clockDiv)).take 48 = q.flatMap (halvesOf conf.clockDiv) :=
    List.take_of_length_le (by rw [length_flatMap_halvesOf, hlen])
  refine ⟨_, (run_of_run Sys2Proof.core hrun (n := 1)).trans
    (run_of_step Sys2Proof.core (step_sendOne_completes hf hr rfl rfl)), ?_, rfl, rfl, rfl, rfl, rfl, rfl, rfl, rfl, rfl,
    hf, hr⟩
  exact congrArg (s.wave ++ [.gap conf.idleLevel (Config.drawGap s.drawIndex)] ++ ·) hwhole

end Sys2Proof.Machine

/-! # The driver: its binding, and SEND_ONE and SEND_MANY from the hand-over to the result (42_channel_driver.md) -/

namespace Sys2Proof.Machine

/-! ## The flags by the elements they speak of (log 7) -/

theorem State.drvBound_eq_true {s : State} (h : s.drvTable ≠ none) : s.drvBound = true :=
  Option.isSome_iff_ne_none.mpr h

theorem State.drvBound_eq_false {s : State} (h : s.drvTable = none) : s.drvBound = false :=
  Option.isSome_eq_false_iff.mpr (Option.isNone_iff_eq_none.mpr h)

theorem State.pinAssigned_eq_true {s : State} (h : s.chPin ≠ none) : s.pinAssigned = true :=
  Option.isSome_iff_ne_none.mpr h

theorem State.pinAssigned_eq_false {s : State} (h : s.chPin = none) : s.pinAssigned = false :=
  Option.isSome_eq_false_iff.mpr (Option.isNone_iff_eq_none.mpr h)

/-! ## DRIVER_NEW (R111, R112) -/

/-- Past its checks DRIVER_NEW binds the table and returns. -/
theorem exec_driverNew_of_wfError_none {t0 t1 : Word} {conf : ChConf} {s : State} (hb : s.drvTable = none)
    (hc : s.chConf = some conf) (hp : s.chPin ≠ none)
    (hw : wfError Config.periodTolNs (Config.tickHz conf.clockDiv) (symOf t0) (symOf t1) = none) :
    exec (.driverNew t0 t1) s = .next ((s.bindDriver t0 t1).finish (.ok .unit)) := by
  simp [exec, execDriverNew, State.drvBound_eq_false hb, hc, State.pinAssigned_eq_true hp, hw]

/-- Settles O29, the checks in the order written. -/
theorem driverNewBinds : Obligations.DriverNewBinds := by
  intro t0 t1 conf s hready
  refine ⟨fun hb => ?_, fun hb hc => ?_, fun hb hc hp => ?_, fun e hb hc hp hw => ?_, fun hb hc hp hw => ?_⟩
  · simp [exec, execDriverNew, State.drvBound_eq_true hb]
  · simp [exec, execDriverNew, State.drvBound_eq_false hb, hc]
  · simp [exec, execDriverNew, State.drvBound_eq_false hb, hc, State.pinAssigned_eq_false hp]
  · simp [exec, execDriverNew, State.drvBound_eq_false hb, hc, State.pinAssigned_eq_true hp, hw]
  · rw [exec_driverNew_of_wfError_none hb hc hp hw]
    exact congrArg Host.Outcome.next (State.finish_of_ready (s := s.bindDriver t0 t1) hready _)

/-! ## A colour handed over (R114, R116) -/

/-- A bound driver hands its table's encoding of the packed colour to the channel. -/
theorem sendColor_of_bound (op : Opcode) (x : Sender) (j : Nat) (c : ColorValue) {s : State} {t0 t1 : Word}
    (hbound : s.drvTable = some (t0, t1)) : sendColor op x j c s =
      conclude op (accept x j (encodeSequence (packColor Config.channelOrder c) t0 t1) s) s := by
  simp only [sendColor, hbound]

/-- A colour handed to an accepting channel starts its transmission (R115). -/
theorem conclude_accept_encodeSequence (op : Opcode) (x : Sender) (j : Nat) (w : ColorWord) {t0 t1 : Word} {conf : ChConf}
    {s : State} (hacc : s.Accepts conf) (h0 : BothLengths t0) (h1 : BothLengths t1) :
    conclude op (accept x j (encodeSequence w t0 t1) s) s =
      .next (s.startTransmission conf.idleLevel x j (encodeSequence w t0 t1) 24) := by
  rw [accept_encodeSequence x j w hacc h0 h1, conclude]

theorem exec_sendOne_of_unbound (c : ColorValue) {s : State} (hb : s.drvTable = none) :
    exec (.sendOne c) s = .next (s.raiseFault .notBound none .sendOne) := by
  simp only [exec, execSendOne, sendColor, hb]

theorem exec_sendMany_of_unbound (colors : List ColorValue) {s : State} (hb : s.drvTable = none) :
    exec (.sendMany colors) s = .next (s.raiseFault .notBound none .sendMany) := by
  simp [exec, execSendMany, State.drvBound_eq_false hb]

/-- The empty list returns at once (R118). -/
theorem exec_sendMany_nil_of_bound {s : State} (hb : s.drvTable ≠ none) :
    exec (.sendMany []) s = .next (s.finish (.ok .unit)) := by
  simp [exec, execSendMany, State.drvBound_eq_true hb]

/-- Settles O30: unbound the command faults, else its colour starts a transmission. -/
theorem sendOneHandsOverColor : Obligations.SendOneHandsOverColor := fun c _ =>
  ⟨exec_sendOne_of_unbound c, fun _ _ _ hbound hacc h0 h1 => exec_sendOne_accepted c hbound hacc h0 h1⟩

/-- Settles O31: unbound the command faults, the empty list returns, else the first colour starts a transmission. -/
theorem sendManyHandsOverFirstColor : Obligations.SendManyHandsOverFirstColor := by
  intro colors s
  refine ⟨exec_sendMany_of_unbound colors, fun hb hready => ?_, ?_⟩
  · rw [exec_sendMany_nil_of_bound hb, State.finish_of_ready hready]
  · rintro c rest t0 t1 conf rfl hbound hacc h0 h1
    rw [exec_sendMany_of_bound c rest hbound]
    exact conclude_accept_encodeSequence _ _ _ _ hacc h0 h1

/-! ## A sequence turned away by the channel's checks (R130, R158) -/

section TurnedAway

variable (x : Sender) (j : Nat) (q : List Word) {s : State} {conf : ChConf}

theorem accept_of_notConfigured (hc : s.chConf = none) : accept x j q s = .fault .notConfigured := by
  simp only [accept, hc]

theorem accept_of_noPin (hc : s.chConf = some conf) (hp : s.chPin = none) : accept x j q s = .fault .noPin := by
  simp [accept, hc, State.pinAssigned_eq_false hp]

theorem accept_of_carrierEnabled (hc : s.chConf = some conf) (hp : s.chPin ≠ none) (he : conf.carrierEn = true) :
    accept x j q s = .fault .carrierEnabled := by
  simp [accept, hc, State.pinAssigned_eq_true hp, he]

theorem accept_of_busy (hc : s.chConf = some conf) (hp : s.chPin ≠ none) (he : conf.carrierEn = false)
    (hb : s.txState = .busy) : accept x j q s = .err .busy := by
  simp [accept, hc, State.pinAssigned_eq_true hp, he, hb]

theorem accept_of_halfZero (hacc : s.Accepts conf) (hn : q.length ≤ Config.chanCap)
    (hz : ∃ v ∈ q.take (firstTerminator q), isHalfZero v = true) : accept x j q s = .fault .halfZeroSymbol := by
  obtain ⟨hc, hp, he, hb⟩ := hacc
  have hany : (q.take (firstTerminator q)).any isHalfZero = true := List.any_eq_true.mpr hz
  simp [accept, hc, hp, he, hb, Nat.not_lt.mpr hn, hany]

end TurnedAway

/-- Settles O33: both commands hand the encoded colour to the channel, and the check that fails answers for them. -/
theorem sendColorTurnedAway : Obligations.SendColorTurnedAway := by
  intro c others i op t0 t1 conf s hi hready hbound
  have hlen := encodeSequence_length (packColor Config.channelOrder c) t0 t1
  obtain ⟨x, hexec⟩ : ∃ x, exec i s =
      conclude op (accept x 0 (encodeSequence (packColor Config.channelOrder c) t0 t1) s) s := by
    obtain ⟨rfl, rfl⟩ | ⟨rfl, rfl⟩ := hi
    · exact ⟨_, exec_sendOne_of_bound c hbound⟩
    · exact ⟨_, exec_sendMany_of_bound c others hbound⟩
  generalize encodeSequence (packColor Config.channelOrder c) t0 t1 = q at hlen hexec ⊢
  rw [hexec]
  refine ⟨fun hc => ?_, fun hc hp => ?_, fun hc hp he => ?_, fun hc hp he hb => ?_, fun hacc hz => ?_⟩
  · rw [accept_of_notConfigured x 0 q hc, conclude]
  · rw [accept_of_noPin x 0 q hc hp, conclude]
  · rw [accept_of_carrierEnabled x 0 q hc hp he, conclude]
  · rw [accept_of_busy x 0 q hc hp he hb, conclude, State.finish_of_ready hready]
  · rw [accept_of_halfZero x 0 q hacc (hlen ▸ chanCap_range.1) hz, conclude]

/-! ## The waiting caller's steps (R116, R149) -/

section Waiting

variable {s : State} {j : Nat} {x : Sender} (hf : s.fault = none) (hr : s.refused = none) (hc : s.caller = .waiting j x)
include hf hr hc

/-- Where a waiting caller has a step, it is the block's step. -/
theorem step_of_waitingStep {o : Step} (hw : waitingStep j x s = some o) : step s = o := by
  simp [step, agentStep, callerStep, hf, hr, hc, hw]

/-- A waiting caller takes the result of a transmission that has ended. -/
theorem step_eq_completionStep {r : TxOutcome} (hx : s.txResult = some r) : step s = completionStep j x r s :=
  step_of_waitingStep hf hr hc (by simp only [waitingStep, hx])

end Waiting

/-- Inside SEND_MANY, with the channel Idle and no result to take, the waiting caller hands over its colour (log 11). -/
theorem waitingStep_nextColor {s : State} {j : Nat} {colors : List ColorValue} {c : ColorValue} (hx : s.txResult = none)
    (hi : s.txState = .idle) (hj : colors[j]? = some c) :
    waitingStep j (.sendMany colors) s = some (sendManyColor colors j c s) := by
  simp only [waitingStep, hx, hi, hj, Option.map_some]

/-- An `Ok` with a colour left takes SEND_MANY on to that colour (R116). -/
theorem completionStep_goesOn {j : Nat} {colors : List ColorValue} (s : State) (hj : j + 1 < colors.length) :
    completionStep j (.sendMany colors) .ok s = .next (s.takeResult.waitFor (j + 1) (.sendMany colors)) := by
  rw [completionStep, if_pos hj]

/-- An error is the command's result, whatever the command (R117, R119). -/
theorem completionStep_err (j : Nat) (x : Sender) (e : TxError) (s : State) :
    completionStep j x (.err e) s = .next (s.takeResult.finish (.txErr e)) := by
  cases x with
  | pulseSequence => rfl
  | sendOne => rfl
  | sendMany colors => rfl

/-- An `Ok` is the command's result, but where SEND_MANY has a colour left (R116, R119). -/
theorem completionStep_ok_of_last {j : Nat} {x : Sender} (s : State)
    (hlast : x = .pulseSequence ∨ x = .sendOne ∨ ∃ colors, x = .sendMany colors ∧ colors.length ≤ j + 1) :
    completionStep j x .ok s = .next (s.takeResult.finish (.ok .unit)) := by
  obtain rfl | rfl | ⟨colors, rfl, hlen⟩ := hlast
  · rfl
  · rfl
  · rw [completionStep, if_neg (Nat.not_lt.mpr hlen), resultOf]

/-- Settles O34: the result is taken for the next colour, and the caller waiting there hands the colour over. -/
theorem sendManyGoesOn : Obligations.SendManyGoesOn := by
  intro j colors s hf hr hc
  refine ⟨fun hx hj => ?_, fun c t0 t1 conf hx hi hj hbound hacc h0 h1 => ?_⟩
  · exact (step_eq_completionStep hf hr hc hx).trans (completionStep_goesOn s hj)
  · rw [step_of_waitingStep hf hr hc (waitingStep_nextColor hx hi hj), sendManyColor, sendColor_of_bound _ _ _ _ hbound]
    exact conclude_accept_encodeSequence _ _ _ _ hacc h0 h1

/-- Settles O35: the result taken is the command's own, an error at any colour and an `Ok` at the last. -/
theorem sendReturnsOutcome : Obligations.SendReturnsOutcome := fun j x s hf hr hc =>
  ⟨fun e hx => (step_eq_completionStep hf hr hc hx).trans (completionStep_err j x e s),
    fun hx hlast => (step_eq_completionStep hf hr hc hx).trans (completionStep_ok_of_last s hlast)⟩

end Sys2Proof.Machine

/-! # The pulse-output channel: its settings and pin, the sequences it takes, and the ends of a transmission
(43_pulse_output_peripheral.md) -/

namespace Sys2Proof.Machine

/-! ## A stuck caller (R138, R168) -/

/-- A caller that waits on a hung channel has no step: no result will come, and SEND_MANY goes on only where the channel is
Idle (R138). -/
theorem callerStep_eq_none_of_stuck {s : State} (h : s.Stuck) (hx : s.txResult = none) : callerStep s = none := by
  obtain ⟨⟨j, x, hc⟩, hhung⟩ := h
  have hw : waitingStep j x s = none := by
    cases x with
    | pulseSequence => simp only [waitingStep, hx]
    | sendOne => simp only [waitingStep, hx]
    | sendMany colors => simp only [waitingStep, hx, hhung]
  simp only [callerStep, hc, hw, ite_self]

theorem restStep_of_unmarked {s : State} (hf : s.fault = none) (hr : s.refused = none) : restStep s = .next s := by
  simp only [restStep, hf, hr]

/-- Neither agent has a step where the caller is stuck, so the block rests (log 2). -/
theorem step_of_stuck {s : State} (h : s.Stuck) (hx : s.txResult = none) (hf : s.fault = none) (hr : s.refused = none) :
    step s = .next s := by
  have hb : s.txState ≠ .busy := by simp [h.channelHung]
  rw [step_eq_restStep (callerStep_eq_none_of_stuck h hx) hb, restStep_of_unmarked hf hr]

/-- A state that steps to itself stays however long the run. -/
theorem run_of_step_self (M : Host.Core) {s : M.State} (h : M.step s = .next s) (n : Nat) : M.run n s = .next s := by
  induction n with
  | zero => rfl
  | succ n ih => rw [run_of_step M h, ih]

/-- A waiting caller has not completed its program (R169). -/
theorem State.Stuck.not_final {s : State} (h : s.Stuck) : ¬ s.Final := by
  intro hfinal
  obtain ⟨j, x, hc⟩ := h.callerWaits
  cases hc.symm.trans hfinal.callerReady

/-- After the reset event the caller is Ready (R170). -/
theorem State.applyReset_not_stuck (s : State) : ¬ s.applyReset.Stuck := by
  rintro ⟨⟨j, x, hc⟩, -⟩
  cases hc

/-- Settles O38: a stuck block steps to itself, and its caller waits where that of a final run, and of a reset block, is
Ready. -/
theorem stuckForEver : Obligations.StuckForEver := fun n s h hx hf hr =>
  ⟨run_of_step_self Sys2Proof.core (step_of_stuck h hx hf hr) n, h.not_final, s.applyReset_not_stuck⟩

/-! ## The agents take turns (R134, R179) -/

/-- Settles O47: a transmission in flight has a waiting caller and no result yet. -/
theorem agentsTakeTurns : Obligations.AgentsTakeTurns := by
  intro s hinv hb
  obtain ⟨j, x, hc⟩ := (hinv.busy hb).callerWaits
  exact callerStep_eq_none_of_busy hc (hinv.busy hb).noResult hb

/-! ## The ends of a transmission (R137 to R139) -/

/-- Where a waiting caller's Busy channel has reached its plan's stop, the step ends the transmission as planned. -/
theorem step_ends {s : State} {j : Nat} {x : Sender} {plan : Plan} {conf : ChConf} (hcaller : s.caller = .waiting j x)
    (hx : s.txResult = none) (hb : s.txState = .busy) (hc : s.chConf = some conf) (hp : s.txPlan = some plan)
    (hge : plan.stop s.txLen ≤ s.txPos) : step s = .next (s.endAsPlanned conf.idleLevel plan) := by
  rw [step_eq_transmitterStep (callerStep_eq_none_of_busy hcaller hx hb) hb, transmitterStep_ends hp hge hc]

/-- Settles O37: each plan's stop is the position its clause names. -/
theorem transmissionEnds : Obligations.TransmissionEnds := fun _ _ _ _ _ _ hcaller hx hb hc =>
  ⟨fun hp hpos => step_ends hcaller hx hb hc hp hpos.ge,
    fun hp hpos => step_ends hcaller hx hb hc hp hpos.ge,
    fun hp hpos => step_ends hcaller hx hb hc hp hpos.ge⟩

/-! ## CONFIGURE and ASSIGN_PIN (R126, R128) -/

theorem exec_configure_of_bound (idle carrier : Bool) (div : Byte) {s : State} (hb : s.drvTable ≠ none) :
    exec (.configure idle carrier div) s = .next (s.raiseFault .configAfterBind none .configure) := by
  rw [exec, execConfigure, if_pos (State.drvBound_eq_true hb)]

theorem exec_configure_of_unbound (idle carrier : Bool) (div : Byte) {s : State} (hb : s.drvTable = none) :
    exec (.configure idle carrier div) s = .next ((s.setConf ⟨idle, carrier, div⟩).finish (.ok .unit)) := by
  simp [exec, execConfigure, State.drvBound_eq_false hb]

theorem exec_assignPin_of_bound (pin : Byte) {s : State} (hb : s.drvTable ≠ none) :
    exec (.assignPin pin) s = .next (s.raiseFault .configAfterBind none .assignPin) := by
  rw [exec, execAssignPin, if_pos (State.drvBound_eq_true hb)]

theorem exec_assignPin_of_unbound (pin : Byte) {s : State} (hb : s.drvTable = none) :
    exec (.assignPin pin) s = .next ((s.setPin pin).finish (.ok .unit)) := by
  simp [exec, execAssignPin, State.drvBound_eq_false hb]

theorem State.setConf_eq (s : State) (c : ChConf) : s.setConf c =
    { s with chConf := some c, pinOut := if s.chPin ≠ none then .driven c.idleLevel else s.pinOut } := by
  by_cases hp : s.chPin = none
  · simp [State.setConf, State.pinAssigned_eq_false hp, hp]
  · simp [State.setConf, State.pinAssigned_eq_true hp, hp]

theorem State.setPin_of_not_configured (pin : Byte) {s : State} (hc : s.chConf = none) :
    s.setPin pin = { s with chPin := some pin } := by
  simp only [State.setPin, hc]

theorem State.setPin_of_configured (pin : Byte) {s : State} {conf : ChConf} (hc : s.chConf = some conf) :
    s.setPin pin = { s with chPin := some pin, pinOut := .driven conf.idleLevel } := by
  simp only [State.setPin, hc]

/-- Settles O22: the binding decides between the fault and the writes. -/
theorem configureSetsChannel : Obligations.ConfigureSetsChannel := by
  intro idle carrier div s hready
  refine ⟨exec_configure_of_bound idle carrier div, fun hb => ?_⟩
  rw [exec_configure_of_unbound idle carrier div hb, State.finish_of_ready (s := s.setConf _) hready, State.setConf_eq]

/-- Settles O23: the binding decides between the fault and the writes, and the settings whether the pin is driven. -/
theorem assignPinSetsPin : Obligations.AssignPinSetsPin := by
  intro pin s hready
  refine ⟨exec_assignPin_of_bound pin, fun hb hc => ?_, fun conf hb hc => ?_⟩
  · rw [exec_assignPin_of_unbound pin hb, State.finish_of_ready (s := s.setPin pin) hready,
      State.setPin_of_not_configured pin hc]
  · rw [exec_assignPin_of_unbound pin hb, State.finish_of_ready (s := s.setPin pin) hready,
      State.setPin_of_configured pin hc]

/-! ## SEND_PULSE_SEQUENCE (R130, R158) -/

theorem exec_sendPulseSequence (q : List Word) (s : State) :
    exec (.sendPulseSequence .oneShot q) s = conclude .sendPulseSequence (accept .pulseSequence 0 q s) s := rfl

/-- A sequence longer than the buffer is an overrun (R133). -/
theorem accept_of_overrun (x : Sender) (j : Nat) {q : List Word} {s : State} {conf : ChConf} (hacc : s.Accepts conf)
    (hn : Config.chanCap < q.length) : accept x j q s = .err .overrun := by
  obtain ⟨hc, hp, he, hb⟩ := hacc
  simp [accept, hc, hp, he, hb, hn]

/-- Settles O24: an accepted sequence starts its transmission, whose writes are those of R130. -/
theorem sendPulseSequenceAccepted : Obligations.SendPulseSequenceAccepted := by
  intro q conf s hacc hn hz
  rw [exec_sendPulseSequence,
    accept_accepted hacc.configured hacc.pinAssigned hacc.carrierOff hacc.notBusy hn hz, conclude]
  rfl

/-- Settles O25: the check that fails answers for the command. -/
theorem sendPulseSequenceTurnedAway : Obligations.SendPulseSequenceTurnedAway := by
  intro q conf s hready
  rw [exec_sendPulseSequence]
  refine ⟨fun hc => ?_, fun hc hp => ?_, fun hc hp he => ?_, fun hc hp he hb => ?_, fun hacc hn => ?_,
    fun hacc hn hz => ?_⟩
  · rw [accept_of_notConfigured _ _ _ hc, conclude]
  · rw [accept_of_noPin _ _ _ hc hp, conclude]
  · rw [accept_of_carrierEnabled _ _ _ hc hp he, conclude]
  · rw [accept_of_busy _ _ _ hc hp he hb, conclude, State.finish_of_ready hready]
  · rw [accept_of_overrun _ _ hacc hn, conclude, State.finish_of_ready hready]
  · rw [accept_of_halfZero _ _ _ hacc hn hz, conclude]

end Sys2Proof.Machine

/-! # Refused words, and the steps that change nothing (60_exceptions.md) -/

namespace Sys2Proof.Machine

/-! ## Words that spell no command (R156, R157) -/

/-- Settles O56: words left are there to be issued, and the issuing step marks the reason they do not decode for. -/
theorem stepRefusesWords : Obligations.StepRefusesWords := by
  intro r s hs hp hd
  rw [step_eq_issueStep hs hp, issueStep, hd]
  rfl

/-! ## What a command or an emission cannot leave as it was -/

/-- A command was answered: its fault is marked, its result appended, or a transmission drawn for it (R130, R150, R154). -/
def Answered (s t : State) : Prop := t.fault ≠ none ∨ t.results ≠ s.results ∨ t.drawIndex ≠ s.drawIndex

theorem Answered.of_finish {s u : State} (h : u.results = s.results) (r : Result) : Answered s (u.finish r) :=
  .inr (.inl (by simp [State.finish, h]))

/-- An answer to an unfaulted state is another state. -/
theorem Answered.ne {s t : State} (h : Answered s t) (hf : s.fault = none) : t ≠ s := by
  rintro rfl
  obtain hfault | hres | hdraw := h
  · exact hfault hf
  · exact hres rfl
  · exact hdraw rfl

theorem Sent.answered {x : Sender} {j : Nat} {s t : State} (h : Sent x j s t) : Answered s t := by
  cases h with
  | fault f d op h => subst h; exact .inl nofun
  | result r h => exact h ▸ .of_finish rfl r
  | accepted conf q hc hn hz h => subst h; exact .inr (.inr (Nat.succ_ne_self _))

theorem Executed.answered {i : Instr} {s t : State} (h : Executed i s t) : Answered s t := by
  cases h with
  | fault f d op h => subst h; exact .inl nofun
  | result r h => exact h ▸ .of_finish rfl r
  | configured idle carrier div hi hb h => exact h ▸ .of_finish rfl _
  | pinned pin hi hb h => exact h ▸ .of_finish rfl _
  | bound t0 t1 conf hb hc hp hw h => exact h ▸ .of_finish rfl _
  | sent x hx h => exact h.answered

/-- A Busy channel's transmitter moves on: its position advances (R135) or the channel is Busy no longer (R137 to R139). -/
theorem transmitterStep_ne_self {s t : State} (hb : s.txState = .busy) (h : transmitterStep s = .next t) : t ≠ s := by
  intro hself
  obtain ⟨plan, -, ⟨-, -, v, conf, -, -, ht⟩ | ⟨-, ⟨-, ht⟩ | ⟨conf, r, -, ht⟩⟩⟩ := transmitterStep_next h
  · exact Nat.succ_ne_self s.txPos (congrArg State.txPos (ht.symm.trans hself))
  · cases hb.symm.trans (congrArg State.txState (hself.symm.trans ht))
  · cases hb.symm.trans (congrArg State.txState (hself.symm.trans ht))

/-! ## The block at rest (R168, R169) -/

/-- No agent of the unmarked block has a step (log 2). -/
structure State.Resting (s : State) : Prop where
  callerStill : callerStep s = none
  notBusy : s.txState ≠ .busy
  noFault : s.fault = none
  noRefusal : s.refused = none

/-- A step of either agent changes the state, so a step that changes nothing is that of a block at rest. -/
theorem resting_of_step_self {s : State} (h : step s = .next s) : s.Resting := by
  cases step_cases h with
  | refused hs r hp hd h => cases hs.noRefusal.symm.trans (congrArg State.refused h)
  | issued hs i rest hd h => exact absurd rfl (Answered.ne (s := s) h.answered hs.noFault)
  | goesOn hf hr j colors hc hj hx h => cases hx.symm.trans (congrArg State.txResult h)
  | delivered hf hr j x r hc hx h => cases hx.symm.trans (congrArg State.txResult h)
  | nextColor hf hr j colors hc hi hx hj h => exact absurd rfl (h.answered.ne hf)
  | transmitted hc hb h => exact absurd rfl (transmitterStep_ne_self hb h)
  | rested hc hb hf hr h => exact ⟨hc, hb, hf, hr⟩

namespace State.Resting

variable {s : State} (h : s.Resting)
include h

/-- A Ready caller at rest has come to the end of its program. -/
theorem pending_eq_nil (hc : s.caller = .ready) : s.pending = [] := by
  have hstill := h.callerStill
  simpa [callerStep, h.noFault, h.noRefusal, hc] using hstill

/-- A waiting caller at rest has neither a result to take nor a colour to hand over. -/
theorem waitingStep_eq_none {j : Nat} {x : Sender} (hc : s.caller = .waiting j x) : waitingStep j x s = none := by
  have hstill := h.callerStill
  simpa [callerStep, h.noFault, h.noRefusal, hc] using hstill

theorem txResult_eq_none {j : Nat} {x : Sender} (hc : s.caller = .waiting j x) : s.txResult = none := by
  have hstill := h.waitingStep_eq_none hc
  cases hx : s.txResult with
  | none => rfl
  | some r => simp [waitingStep, hx] at hstill

/-- An Idle channel leaves no caller waiting at rest: it would be inside SEND_MANY with a colour to hand over (log 11). -/
theorem not_idle_of_waiting (hinv : s.Inv) {j : Nat} {x : Sender} (hc : s.caller = .waiting j x) : s.txState ≠ .idle := by
  intro hi
  have hx := h.txResult_eq_none hc
  obtain ⟨colors, rfl⟩ := hinv.between j x hc hi hx
  obtain ⟨hj, -⟩ := hinv.sender j _ hc
  have hnext := waitingStep_nextColor hx hi (List.getElem?_eq_getElem hj)
  cases (h.waitingStep_eq_none hc).symm.trans hnext

end State.Resting

/-- Settles O46: only a block at rest steps to itself; its Ready caller has ended the run, and its waiting one has a channel
that is neither Busy nor Idle. -/
theorem restsOnlyWhenFinalOrStuck : Obligations.RestsOnlyWhenFinalOrStuck := by
  intro s hinv hstep
  have hrest := resting_of_step_self hstep
  cases hc : s.caller with
  | ready =>
    obtain ⟨hidle, -⟩ := hinv.ready hc
    exact .inl ⟨hrest.pending_eq_nil hc, hc, hidle, hrest.noFault, hrest.noRefusal⟩
  | waiting j x =>
    refine .inr ⟨⟨j, x, hc⟩, ?_⟩
    cases hs : s.txState with
    | idle => exact absurd hs (hrest.not_idle_of_waiting hinv hc)
    | busy => exact absurd hs hrest.notBusy
    | hung => rfl

end Sys2Proof.Machine

/-! # The reset event (70_reset_and_hazards.md) -/

namespace Sys2Proof.Machine

/-- The invariant speaks of the block's elements only: neither of the program's words nor of the draws (log 1, log 4). -/
theorem State.Inv.withProgram {s : State} (h : s.Inv) (done toIssue : List Word) (draws : Nat) :
    ({ s with issued := done, pending := toIssue, drawIndex := draws } : State).Inv :=
  { h with
    busy := fun hbusy => { h.busy hbusy with } }

/-- The reset event leaves the block right after reset, before a program (R170, R171). -/
theorem State.applyReset_inv (s : State) : s.applyReset.Inv :=
  resetMeetsInvariant.withProgram [] (s.issued ++ s.pending) s.drawIndex

/-- Settles O58: the event writes R42's values and the whole program, and the block after reset meets the invariant whatever
its program. -/
theorem resetEventRestarts : Obligations.ResetEventRestarts := fun s => ⟨rfl, s.applyReset_inv⟩

end Sys2Proof.Machine
